-- ==== Sys2Proof/Word.lean ====
section
/-! DEFINITION. The word types of the machine (00_scope.md R7): 8-bit bytes, 16-bit words, 22-bit program counters, and
register numbers. Nothing here computes; the byte-order and sign helpers stand in Machine/Ops.lean. -/

namespace Sys2Proof

/-- An 8-bit register or data byte (R7). -/
abbrev Byte := BitVec 8

/-- A 16-bit program word, data address or pointer value (R7). -/
abbrev Word := BitVec 16

/-- A program-word address as the pc holds it: the wider of the two widths of R6. -/
abbrev PcWord := BitVec 22

/-- A register number 0..31 (R12, R30). -/
abbrev Reg := Fin 32

/-- A bit number 0..7, of a byte or of SREG (R117, R120, R500). -/
abbrev BitNo := Fin 8

end Sys2Proof
end

