-- ==== Sys2Proof/Syntax.lean ====
section
/-! DEFINITION. The instructions: one constructor per row of spec/opcode_table.json (30_encoding.md R125), in the table's
order. Operands are the values of the fields R101..R121: register numbers as R101..R109 give them (already 16 + … or
2 * …), immediates and addresses as the bits the field holds. -/

namespace Sys2Proof

/-- The 97 instructions (R125). Each docstring gives the row's syntax and the rule of its meaning. -/
inductive Instr where
  /-- `NOP` (R507) -/
  | nop
  /-- `MOVW Rd+1:Rd, Rr+1:Rr` (R401) -/
  | movw (d r : Reg)
  /-- `MULS Rd, Rr` (R230) -/
  | muls (d r : Reg)
  /-- `MULSU Rd, Rr` (R231) -/
  | mulsu (d r : Reg)
  /-- `FMUL Rd, Rr` (R232) -/
  | fmul (d r : Reg)
  /-- `FMULS Rd, Rr` (R233) -/
  | fmuls (d r : Reg)
  /-- `FMULSU Rd, Rr` (R234) -/
  | fmulsu (d r : Reg)
  /-- `CPC Rd, Rr` (R212) -/
  | cpc (d r : Reg)
  /-- `SBC Rd, Rr` (R209) -/
  | sbc (d r : Reg)
  /-- `ADD Rd, Rr` (R205); `LSL` is `ADD Rd, Rd` -/
  | add (d r : Reg)
  /-- `CPSE Rd, Rr` (R315) -/
  | cpse (d r : Reg)
  /-- `CP Rd, Rr` (R211) -/
  | cp (d r : Reg)
  /-- `SUB Rd, Rr` (R207) -/
  | sub (d r : Reg)
  /-- `ADC Rd, Rr` (R206); `ROL` is `ADC Rd, Rd` -/
  | adc (d r : Reg)
  /-- `AND Rd, Rr` (R217); `TST` is `AND Rd, Rd` -/
  | and (d r : Reg)
  /-- `EOR Rd, Rr` (R221); `CLR` is `EOR Rd, Rd` -/
  | eor (d r : Reg)
  /-- `OR Rd, Rr` (R219) -/
  | or (d r : Reg)
  /-- `MOV Rd, Rr` (R400) -/
  | mov (d r : Reg)
  /-- `CPI Rd, K` (R213) -/
  | cpi (d : Reg) (k : Byte)
  /-- `SBCI Rd, K` (R210) -/
  | sbci (d : Reg) (k : Byte)
  /-- `SUBI Rd, K` (R208) -/
  | subi (d : Reg) (k : Byte)
  /-- `ORI Rd, K` (R220); `SBR` is the same word -/
  | ori (d : Reg) (k : Byte)
  /-- `ANDI Rd, K` (R218); `CBR Rd, K` is `ANDI Rd, ~K` -/
  | andi (d : Reg) (k : Byte)
  /-- `LDD Rd, Z+q` (R412); `LD Rd, Z` is q = 0 -/
  | lddZ (d : Reg) (q : BitVec 6)
  /-- `LDD Rd, Y+q` (R409); `LD Rd, Y` is q = 0 -/
  | lddY (d : Reg) (q : BitVec 6)
  /-- `STD Z+q, Rr` (R421); `ST Z, Rr` is q = 0 -/
  | stdZ (q : BitVec 6) (r : Reg)
  /-- `STD Y+q, Rr` (R418); `ST Y, Rr` is q = 0 -/
  | stdY (q : BitVec 6) (r : Reg)
  /-- `LDS Rd, k` (R422), two words -/
  | lds (d : Reg) (k : Word)
  /-- `LD Rd, Z+` (R410) -/
  | ldZInc (d : Reg)
  /-- `LD Rd, -Z` (R411) -/
  | ldZDec (d : Reg)
  /-- `LPM Rd, Z` (R425) -/
  | lpmZ (d : Reg)
  /-- `LPM Rd, Z+` (R426) -/
  | lpmZInc (d : Reg)
  /-- `ELPM Rd, Z` (R428) -/
  | elpmZ (d : Reg)
  /-- `ELPM Rd, Z+` (R429) -/
  | elpmZInc (d : Reg)
  /-- `LD Rd, Y+` (R407) -/
  | ldYInc (d : Reg)
  /-- `LD Rd, -Y` (R408) -/
  | ldYDec (d : Reg)
  /-- `LD Rd, X` (R404) -/
  | ldX (d : Reg)
  /-- `LD Rd, X+` (R405) -/
  | ldXInc (d : Reg)
  /-- `LD Rd, -X` (R406) -/
  | ldXDec (d : Reg)
  /-- `POP Rd` (R435) -/
  | pop (d : Reg)
  /-- `STS k, Rr` (R423), two words -/
  | sts (k : Word) (r : Reg)
  /-- `ST Z+, Rr` (R419) -/
  | stZInc (r : Reg)
  /-- `ST -Z, Rr` (R420) -/
  | stZDec (r : Reg)
  /-- `XCH Z, Rd` (R430) -/
  | xch (d : Reg)
  /-- `LAS Z, Rd` (R431) -/
  | las (d : Reg)
  /-- `LAC Z, Rd` (R432) -/
  | lac (d : Reg)
  /-- `LAT Z, Rd` (R433) -/
  | lat (d : Reg)
  /-- `ST Y+, Rr` (R416) -/
  | stYInc (r : Reg)
  /-- `ST -Y, Rr` (R417) -/
  | stYDec (r : Reg)
  /-- `ST X, Rr` (R413) -/
  | stX (r : Reg)
  /-- `ST X+, Rr` (R414) -/
  | stXInc (r : Reg)
  /-- `ST -X, Rr` (R415) -/
  | stXDec (r : Reg)
  /-- `PUSH Rr` (R434) -/
  | push (r : Reg)
  /-- `COM Rd` (R222) -/
  | com (d : Reg)
  /-- `NEG Rd` (R214) -/
  | neg (d : Reg)
  /-- `SWAP Rd` (R226) -/
  | swap (d : Reg)
  /-- `INC Rd` (R215) -/
  | inc (d : Reg)
  /-- `ASR Rd` (R224) -/
  | asr (d : Reg)
  /-- `LSR Rd` (R223) -/
  | lsr (d : Reg)
  /-- `ROR Rd` (R225) -/
  | ror (d : Reg)
  /-- `DEC Rd` (R216) -/
  | dec (d : Reg)
  /-- `BSET s` (R503); `SEC` … `SEI` -/
  | bset (b : BitNo)
  /-- `BCLR s` (R504); `CLC` … `CLI` -/
  | bclr (b : BitNo)
  /-- `IJMP` (R302) -/
  | ijmp
  /-- `EIJMP` (R303) -/
  | eijmp
  /-- `DES K` (R515) -/
  | des (k : BitVec 4)
  /-- `RET` (R309) -/
  | ret
  /-- `RETI` (R310) -/
  | reti
  /-- `SLEEP` (R510) -/
  | sleep
  /-- `BREAK` (R511) -/
  | brk
  /-- `WDR` (R512) -/
  | wdr
  /-- `LPM` (R424) -/
  | lpm
  /-- `ELPM` (R427) -/
  | elpm
  /-- `SPM` (R513) -/
  | spm
  /-- `SPM Z+` (R514) -/
  | spmZInc
  /-- `ICALL` (R307) -/
  | icall
  /-- `EICALL` (R308) -/
  | eicall
  /-- `JMP k` (R301), two words -/
  | jmp (k : BitVec 22)
  /-- `CALL k` (R306), two words -/
  | call (k : BitVec 22)
  /-- `ADIW Rd+1:Rd, K` (R227) -/
  | adiw (d : Reg) (k : BitVec 6)
  /-- `SBIW Rd+1:Rd, K` (R228) -/
  | sbiw (d : Reg) (k : BitVec 6)
  /-- `CBI A, b` (R505) -/
  | cbi (a : BitVec 5) (b : BitNo)
  /-- `SBIC A, b` (R318) -/
  | sbic (a : BitVec 5) (b : BitNo)
  /-- `SBI A, b` (R506) -/
  | sbi (a : BitVec 5) (b : BitNo)
  /-- `SBIS A, b` (R319) -/
  | sbis (a : BitVec 5) (b : BitNo)
  /-- `MUL Rd, Rr` (R229) -/
  | mul (d r : Reg)
  /-- `IN Rd, A` (R436) -/
  | inIo (d : Reg) (a : BitVec 6)
  /-- `OUT A, Rr` (R437) -/
  | outIo (a : BitVec 6) (r : Reg)
  /-- `RJMP k` (R300) -/
  | rjmp (k : BitVec 12)
  /-- `RCALL k` (R305) -/
  | rcall (k : BitVec 12)
  /-- `LDI Rd, K` (R402) -/
  | ldi (d : Reg) (k : Byte)
  /-- `BRBS s, k` (R312) -/
  | brbs (b : BitNo) (k : BitVec 7)
  /-- `BRBC s, k` (R313) -/
  | brbc (b : BitNo) (k : BitVec 7)
  /-- `BLD Rd, b` (R501) -/
  | bld (d : Reg) (b : BitNo)
  /-- `BST Rd, b` (R502) -/
  | bst (d : Reg) (b : BitNo)
  /-- `SBRC Rr, b` (R316) -/
  | sbrc (r : Reg) (b : BitNo)
  /-- `SBRS Rr, b` (R317) -/
  | sbrs (r : Reg) (b : BitNo)
deriving DecidableEq, Repr

end Sys2Proof
end

