-- ==== Sys2Proof/WellFormed.lean ====
section
/-! DEFINITION. Which instruction terms have a word: the register sets an operand field can name (10_state.md R31,
30_encoding.md R103..R109, R133). Every value of every other field is legal (R126). -/

namespace Sys2Proof

/-- The "short" fields name R16..R31 only (R103, R104). -/
def Reg.isShort (r : Reg) : Bool := decide (16 ≤ r.val)

/-- The "tiny" fields name R16..R23 only (R105, R106). -/
def Reg.isTiny (r : Reg) : Bool := decide (16 ≤ r.val) && decide (r.val ≤ 23)

/-- The pair fields of MOVW name even registers (R107, R108). -/
def Reg.isEven (r : Reg) : Bool := decide (r.val % 2 = 0)

/-- The "pair tiny" field of ADIW and SBIW names R24, R26, R28, R30 (R109). -/
def Reg.isPairTiny (r : Reg) : Bool := decide (24 ≤ r.val) && decide (r.val % 2 = 0)

/-- The instruction can be written as the words of its row (R31, R126, R133). -/
def Instr.wellFormed : Instr → Bool
  | .cpi d _ | .sbci d _ | .subi d _ | .ori d _ | .andi d _ | .ldi d _ => d.isShort
  | .muls d r => d.isShort && r.isShort
  | .mulsu d r | .fmul d r | .fmuls d r | .fmulsu d r => d.isTiny && r.isTiny
  | .movw d r => d.isEven && r.isEven
  | .adiw d _ | .sbiw d _ => d.isPairTiny
  | .cpc _ _ | .sbc _ _ | .add _ _ | .cpse _ _ | .cp _ _ | .sub _ _ | .adc _ _ | .and _ _ | .eor _ _ | .or _ _
  | .mov _ _ | .mul _ _ => true
  | .lddZ _ _ | .lddY _ _ | .stdZ _ _ | .stdY _ _ | .lds _ _ | .sts _ _ => true
  | .ldZInc _ | .ldZDec _ | .ldYInc _ | .ldYDec _ | .ldX _ | .ldXInc _ | .ldXDec _ => true
  | .stZInc _ | .stZDec _ | .stYInc _ | .stYDec _ | .stX _ | .stXInc _ | .stXDec _ => true
  | .lpm | .lpmZ _ | .lpmZInc _ | .elpm | .elpmZ _ | .elpmZInc _ => true
  | .xch _ | .las _ | .lac _ | .lat _ | .push _ | .pop _ => true
  | .com _ | .neg _ | .swap _ | .inc _ | .dec _ | .asr _ | .lsr _ | .ror _ => true
  | .bset _ | .bclr _ | .bld _ _ | .bst _ _ | .cbi _ _ | .sbi _ _ => true
  | .ijmp | .eijmp | .icall | .eicall | .ret | .reti | .jmp _ | .call _ | .rjmp _ | .rcall _ => true
  | .brbs _ _ | .brbc _ _ | .sbrc _ _ | .sbrs _ _ | .sbic _ _ | .sbis _ _ => true
  | .inIo _ _ | .outIo _ _ => true
  | .nop | .sleep | .brk | .wdr | .spm | .spmZInc | .des _ => true

end Sys2Proof
end

