-- ==== Sys2Proof/Decode.lean ====
section
/-! DEFINITION. Decoding, total on any words and any bytes, and after it the encoder. The table is R125 of
30_encoding.md row by row; the field extractors and their inverses are R101..R121. -/

namespace Sys2Proof

/-! ## Operand fields (R101..R121) -/

/-- R101: `d = op[8:4]`, also the `r` of ST, STD, STS, PUSH, OUT, SBRC, SBRS. -/
def d5 (op : Word) : Reg := Fin.ofNat 32 (op.extractLsb' 4 5).toNat
/-- R102: `r = op[9]:op[3:0]`. -/
def r5 (op : Word) : Reg := Fin.ofNat 32 (op.extractLsb' 9 1 ++ op.extractLsb' 0 4).toNat
/-- R103: `d = 16 + op[7:4]`. -/
def d4 (op : Word) : Reg := Fin.ofNat 32 (16 + (op.extractLsb' 4 4).toNat)
/-- R104: `r = 16 + op[3:0]`. -/
def r4 (op : Word) : Reg := Fin.ofNat 32 (16 + (op.extractLsb' 0 4).toNat)
/-- R105: `d = 16 + op[6:4]`. -/
def d3 (op : Word) : Reg := Fin.ofNat 32 (16 + (op.extractLsb' 4 3).toNat)
/-- R106: `r = 16 + op[2:0]`. -/
def r3 (op : Word) : Reg := Fin.ofNat 32 (16 + (op.extractLsb' 0 3).toNat)
/-- R107: `d = 2 * op[7:4]`. -/
def dw (op : Word) : Reg := Fin.ofNat 32 (2 * (op.extractLsb' 4 4).toNat)
/-- R108: `r = 2 * op[3:0]`. -/
def rw (op : Word) : Reg := Fin.ofNat 32 (2 * (op.extractLsb' 0 4).toNat)
/-- R109: `d = 24 + 2 * op[5:4]`. -/
def dp (op : Word) : Reg := Fin.ofNat 32 (24 + 2 * (op.extractLsb' 4 2).toNat)
/-- R110: `K = op[11:8]:op[3:0]`. -/
def k8 (op : Word) : Byte := op.extractLsb' 8 4 ++ op.extractLsb' 0 4
/-- R111: `K = op[7:6]:op[3:0]`. -/
def k6 (op : Word) : BitVec 6 := op.extractLsb' 6 2 ++ op.extractLsb' 0 4
/-- R112: `q = op[13]:op[11:10]:op[2:0]`. -/
def q6 (op : Word) : BitVec 6 := op.extractLsb' 13 1 ++ op.extractLsb' 10 2 ++ op.extractLsb' 0 3
/-- R113: `A = op[7:3]`. -/
def a5 (op : Word) : BitVec 5 := op.extractLsb' 3 5
/-- R114: `A = op[10:9]:op[3:0]`. -/
def a6 (op : Word) : BitVec 6 := op.extractLsb' 9 2 ++ op.extractLsb' 0 4
/-- R115: the field `op[11:0]`; its meaning sign-extends it. -/
def k12 (op : Word) : BitVec 12 := op.extractLsb' 0 12
/-- R116: the field `op[9:3]`; its meaning sign-extends it. -/
def k7 (op : Word) : BitVec 7 := op.extractLsb' 3 7
/-- R117: `b = op[2:0]`, also the `s` of BRBS and BRBC. -/
def b3 (op : Word) : BitNo := Fin.ofNat 8 (op.extractLsb' 0 3).toNat
/-- R120: `s = op[6:4]`. -/
def s3 (op : Word) : BitNo := Fin.ofNat 8 (op.extractLsb' 4 3).toNat
/-- R118: `k = op[8:4]:op[0]:op2[15:0]`. -/
def k22 (op op2 : Word) : BitVec 22 := op.extractLsb' 4 5 ++ op.extractLsb' 0 1 ++ op2
/-- R121: `K = op[7:4]`. -/
def k4 (op : Word) : BitVec 4 := op.extractLsb' 4 4

/-! ## Length (R100) -/

/-- "IsLong(op) is true iff (op & 0xFC0F) == 0x9000 … or (op & 0xFE0C) == 0x940C" (R100). -/
def isLong (op : Word) : Bool := op &&& 0xFC0F#16 == 0x9000#16 || op &&& 0xFE0C#16 == 0x940C#16

/-! ## The opcode table (R125) -/

/-- A row of R125: the fixed bits of the first word, which bits are fixed, and the instruction its fields give. -/
structure Row where
  /-- The fixed bits. -/
  pattern : Word
  /-- Which bits are fixed. -/
  mask    : Word
  /-- The instruction, from the first word and (for a long row) the second. -/
  build   : Word → Word → Instr

/-- `op & mask == match` (R123). -/
def Row.admits (row : Row) (op : Word) : Bool := op &&& row.mask == row.pattern

/-- Rows 1..14 of R125. -/
def rows1 : List Row :=
  [ ⟨0x0000#16, 0xFFFF#16, fun _ _ => .nop⟩,
    ⟨0x0100#16, 0xFF00#16, fun op _ => .movw (dw op) (rw op)⟩,
    ⟨0x0200#16, 0xFF00#16, fun op _ => .muls (d4 op) (r4 op)⟩,
    ⟨0x0300#16, 0xFF88#16, fun op _ => .mulsu (d3 op) (r3 op)⟩,
    ⟨0x0308#16, 0xFF88#16, fun op _ => .fmul (d3 op) (r3 op)⟩,
    ⟨0x0380#16, 0xFF88#16, fun op _ => .fmuls (d3 op) (r3 op)⟩,
    ⟨0x0388#16, 0xFF88#16, fun op _ => .fmulsu (d3 op) (r3 op)⟩,
    ⟨0x0400#16, 0xFC00#16, fun op _ => .cpc (d5 op) (r5 op)⟩,
    ⟨0x0800#16, 0xFC00#16, fun op _ => .sbc (d5 op) (r5 op)⟩,
    ⟨0x0C00#16, 0xFC00#16, fun op _ => .add (d5 op) (r5 op)⟩,
    ⟨0x1000#16, 0xFC00#16, fun op _ => .cpse (d5 op) (r5 op)⟩,
    ⟨0x1400#16, 0xFC00#16, fun op _ => .cp (d5 op) (r5 op)⟩,
    ⟨0x1800#16, 0xFC00#16, fun op _ => .sub (d5 op) (r5 op)⟩,
    ⟨0x1C00#16, 0xFC00#16, fun op _ => .adc (d5 op) (r5 op)⟩ ]

/-- Rows 15..28 of R125. -/
def rows2 : List Row :=
  [ ⟨0x2000#16, 0xFC00#16, fun op _ => .and (d5 op) (r5 op)⟩,
    ⟨0x2400#16, 0xFC00#16, fun op _ => .eor (d5 op) (r5 op)⟩,
    ⟨0x2800#16, 0xFC00#16, fun op _ => .or (d5 op) (r5 op)⟩,
    ⟨0x2C00#16, 0xFC00#16, fun op _ => .mov (d5 op) (r5 op)⟩,
    ⟨0x3000#16, 0xF000#16, fun op _ => .cpi (d4 op) (k8 op)⟩,
    ⟨0x4000#16, 0xF000#16, fun op _ => .sbci (d4 op) (k8 op)⟩,
    ⟨0x5000#16, 0xF000#16, fun op _ => .subi (d4 op) (k8 op)⟩,
    ⟨0x6000#16, 0xF000#16, fun op _ => .ori (d4 op) (k8 op)⟩,
    ⟨0x7000#16, 0xF000#16, fun op _ => .andi (d4 op) (k8 op)⟩,
    ⟨0x8000#16, 0xD208#16, fun op _ => .lddZ (d5 op) (q6 op)⟩,
    ⟨0x8008#16, 0xD208#16, fun op _ => .lddY (d5 op) (q6 op)⟩,
    ⟨0x8200#16, 0xD208#16, fun op _ => .stdZ (q6 op) (d5 op)⟩,
    ⟨0x8208#16, 0xD208#16, fun op _ => .stdY (q6 op) (d5 op)⟩,
    ⟨0x9000#16, 0xFE0F#16, fun op op2 => .lds (d5 op) op2⟩ ]

/-- Rows 29..42 of R125. -/
def rows3 : List Row :=
  [ ⟨0x9001#16, 0xFE0F#16, fun op _ => .ldZInc (d5 op)⟩,
    ⟨0x9002#16, 0xFE0F#16, fun op _ => .ldZDec (d5 op)⟩,
    ⟨0x9004#16, 0xFE0F#16, fun op _ => .lpmZ (d5 op)⟩,
    ⟨0x9005#16, 0xFE0F#16, fun op _ => .lpmZInc (d5 op)⟩,
    ⟨0x9006#16, 0xFE0F#16, fun op _ => .elpmZ (d5 op)⟩,
    ⟨0x9007#16, 0xFE0F#16, fun op _ => .elpmZInc (d5 op)⟩,
    ⟨0x9009#16, 0xFE0F#16, fun op _ => .ldYInc (d5 op)⟩,
    ⟨0x900A#16, 0xFE0F#16, fun op _ => .ldYDec (d5 op)⟩,
    ⟨0x900C#16, 0xFE0F#16, fun op _ => .ldX (d5 op)⟩,
    ⟨0x900D#16, 0xFE0F#16, fun op _ => .ldXInc (d5 op)⟩,
    ⟨0x900E#16, 0xFE0F#16, fun op _ => .ldXDec (d5 op)⟩,
    ⟨0x900F#16, 0xFE0F#16, fun op _ => .pop (d5 op)⟩,
    ⟨0x9200#16, 0xFE0F#16, fun op op2 => .sts op2 (d5 op)⟩,
    ⟨0x9201#16, 0xFE0F#16, fun op _ => .stZInc (d5 op)⟩ ]

/-- Rows 43..56 of R125. -/
def rows4 : List Row :=
  [ ⟨0x9202#16, 0xFE0F#16, fun op _ => .stZDec (d5 op)⟩,
    ⟨0x9204#16, 0xFE0F#16, fun op _ => .xch (d5 op)⟩,
    ⟨0x9205#16, 0xFE0F#16, fun op _ => .las (d5 op)⟩,
    ⟨0x9206#16, 0xFE0F#16, fun op _ => .lac (d5 op)⟩,
    ⟨0x9207#16, 0xFE0F#16, fun op _ => .lat (d5 op)⟩,
    ⟨0x9209#16, 0xFE0F#16, fun op _ => .stYInc (d5 op)⟩,
    ⟨0x920A#16, 0xFE0F#16, fun op _ => .stYDec (d5 op)⟩,
    ⟨0x920C#16, 0xFE0F#16, fun op _ => .stX (d5 op)⟩,
    ⟨0x920D#16, 0xFE0F#16, fun op _ => .stXInc (d5 op)⟩,
    ⟨0x920E#16, 0xFE0F#16, fun op _ => .stXDec (d5 op)⟩,
    ⟨0x920F#16, 0xFE0F#16, fun op _ => .push (d5 op)⟩,
    ⟨0x9400#16, 0xFE0F#16, fun op _ => .com (d5 op)⟩,
    ⟨0x9401#16, 0xFE0F#16, fun op _ => .neg (d5 op)⟩,
    ⟨0x9402#16, 0xFE0F#16, fun op _ => .swap (d5 op)⟩ ]

/-- Rows 57..70 of R125. -/
def rows5 : List Row :=
  [ ⟨0x9403#16, 0xFE0F#16, fun op _ => .inc (d5 op)⟩,
    ⟨0x9405#16, 0xFE0F#16, fun op _ => .asr (d5 op)⟩,
    ⟨0x9406#16, 0xFE0F#16, fun op _ => .lsr (d5 op)⟩,
    ⟨0x9407#16, 0xFE0F#16, fun op _ => .ror (d5 op)⟩,
    ⟨0x940A#16, 0xFE0F#16, fun op _ => .dec (d5 op)⟩,
    ⟨0x9408#16, 0xFF8F#16, fun op _ => .bset (s3 op)⟩,
    ⟨0x9488#16, 0xFF8F#16, fun op _ => .bclr (s3 op)⟩,
    ⟨0x9409#16, 0xFFFF#16, fun _ _ => .ijmp⟩,
    ⟨0x9419#16, 0xFFFF#16, fun _ _ => .eijmp⟩,
    ⟨0x940B#16, 0xFF0F#16, fun op _ => .des (k4 op)⟩,
    ⟨0x9508#16, 0xFFFF#16, fun _ _ => .ret⟩,
    ⟨0x9518#16, 0xFFFF#16, fun _ _ => .reti⟩,
    ⟨0x9588#16, 0xFFFF#16, fun _ _ => .sleep⟩,
    ⟨0x9598#16, 0xFFFF#16, fun _ _ => .brk⟩ ]

/-- Rows 71..84 of R125. -/
def rows6 : List Row :=
  [ ⟨0x95A8#16, 0xFFFF#16, fun _ _ => .wdr⟩,
    ⟨0x95C8#16, 0xFFFF#16, fun _ _ => .lpm⟩,
    ⟨0x95D8#16, 0xFFFF#16, fun _ _ => .elpm⟩,
    ⟨0x95E8#16, 0xFFFF#16, fun _ _ => .spm⟩,
    ⟨0x95F8#16, 0xFFFF#16, fun _ _ => .spmZInc⟩,
    ⟨0x9509#16, 0xFFFF#16, fun _ _ => .icall⟩,
    ⟨0x9519#16, 0xFFFF#16, fun _ _ => .eicall⟩,
    ⟨0x940C#16, 0xFE0E#16, fun op op2 => .jmp (k22 op op2)⟩,
    ⟨0x940E#16, 0xFE0E#16, fun op op2 => .call (k22 op op2)⟩,
    ⟨0x9600#16, 0xFF00#16, fun op _ => .adiw (dp op) (k6 op)⟩,
    ⟨0x9700#16, 0xFF00#16, fun op _ => .sbiw (dp op) (k6 op)⟩,
    ⟨0x9800#16, 0xFF00#16, fun op _ => .cbi (a5 op) (b3 op)⟩,
    ⟨0x9900#16, 0xFF00#16, fun op _ => .sbic (a5 op) (b3 op)⟩,
    ⟨0x9A00#16, 0xFF00#16, fun op _ => .sbi (a5 op) (b3 op)⟩ ]

/-- Rows 85..97 of R125. -/
def rows7 : List Row :=
  [ ⟨0x9B00#16, 0xFF00#16, fun op _ => .sbis (a5 op) (b3 op)⟩,
    ⟨0x9C00#16, 0xFC00#16, fun op _ => .mul (d5 op) (r5 op)⟩,
    ⟨0xB000#16, 0xF800#16, fun op _ => .inIo (d5 op) (a6 op)⟩,
    ⟨0xB800#16, 0xF800#16, fun op _ => .outIo (a6 op) (d5 op)⟩,
    ⟨0xC000#16, 0xF000#16, fun op _ => .rjmp (k12 op)⟩,
    ⟨0xD000#16, 0xF000#16, fun op _ => .rcall (k12 op)⟩,
    ⟨0xE000#16, 0xF000#16, fun op _ => .ldi (d4 op) (k8 op)⟩,
    ⟨0xF000#16, 0xFC00#16, fun op _ => .brbs (b3 op) (k7 op)⟩,
    ⟨0xF400#16, 0xFC00#16, fun op _ => .brbc (b3 op) (k7 op)⟩,
    ⟨0xF800#16, 0xFE08#16, fun op _ => .bld (d5 op) (b3 op)⟩,
    ⟨0xFA00#16, 0xFE08#16, fun op _ => .bst (d5 op) (b3 op)⟩,
    ⟨0xFC00#16, 0xFE08#16, fun op _ => .sbrc (d5 op) (b3 op)⟩,
    ⟨0xFE00#16, 0xFE08#16, fun op _ => .sbrs (d5 op) (b3 op)⟩ ]

/-- The 97 rows of R125, in its order. -/
def opcodeTable : List Row := rows1 ++ rows2 ++ rows3 ++ rows4 ++ rows5 ++ rows6 ++ rows7

/-- The instruction of a first word and, where it is long, of the word after it; none where no row admits the word
(R123, R127). "Decoding depends on nothing but `op`" for which row it is. -/
def decode (op op2 : Word) : Option Instr :=
  (opcodeTable.find? fun row => row.admits op).map fun row => row.build op op2

/-! ## Decoding bytes -/

/-- Why a byte sequence gives no instruction. -/
inductive Reject where
  /-- The first word matches no row (R127). -/
  | notAnInstruction (op : Word)
  /-- The bytes end inside a word, or before a long instruction's second word. -/
  | truncated
deriving DecidableEq, Repr

/-- The first instruction of a byte sequence and the bytes after it; a word's low byte comes first (R83, R84). -/
def decodeBytes : List Byte → Except Reject (Instr × List Byte)
  | l :: h :: rest =>
    let op : Word := h ++ l
    match isLong op, rest with
    | true, l2 :: h2 :: rest2 => (decode op (h2 ++ l2)).elim (.error (.notAnInstruction op)) fun i => .ok (i, rest2)
    | true, _ => .error .truncated
    | false, _ => (decode op 0#16).elim (.error (.notAnInstruction op)) fun i => .ok (i, rest)
  | _ => .error .truncated

/-- The bytes of program memory that hold a word, at the lower byte address first (R83). -/
def wordBytes (w : Word) : List Byte := [w.extractLsb' 0 8, w.extractLsb' 8 8]

/-- The first word of an instruction numbered as spec/opcode_table.json numbers its bits: bits 15..0. -/
def tableWord1 (nbits w : Nat) : Word := BitVec.ofNat 16 (w % 2 ^ nbits)

/-- The second word: bits 31..16, zero where the row is given fewer bits. -/
def tableWord2 (nbits w : Nat) : Word := BitVec.ofNat 16 (w % 2 ^ nbits / 2 ^ 16)

/-- What this decoder reads from an instruction whose bits are `w`, numbered as the opcode table numbers them: the two
words laid out as bytes in program order. -/
def decodeTableWord (nbits w : Nat) : Option Instr :=
  match decodeBytes (wordBytes (tableWord1 nbits w) ++ wordBytes (tableWord2 nbits w)) with
  | .ok (i, _) => some i
  | .error _ => none

/-! ## The encoder -/

/-- R101 placed: bits 8..4. -/
def putD5 (d : Reg) : Word := BitVec.ofNat 16 (d.val * 16)
/-- R102 placed: bit 9 and bits 3..0. -/
def putR5 (r : Reg) : Word := BitVec.ofNat 16 (r.val / 16 * 512 + r.val % 16)
/-- R103 placed: bits 7..4 hold the number less 16. -/
def putD4 (d : Reg) : Word := BitVec.ofNat 16 (d.val % 16 * 16)
/-- R104 placed: bits 3..0 hold the number less 16. -/
def putR4 (r : Reg) : Word := BitVec.ofNat 16 (r.val % 16)
/-- R105 placed: bits 6..4 hold the number less 16. -/
def putD3 (d : Reg) : Word := BitVec.ofNat 16 (d.val % 8 * 16)
/-- R106 placed: bits 2..0 hold the number less 16. -/
def putR3 (r : Reg) : Word := BitVec.ofNat 16 (r.val % 8)
/-- R107 placed: bits 7..4 hold half the number. -/
def putDw (d : Reg) : Word := BitVec.ofNat 16 (d.val / 2 * 16)
/-- R108 placed: bits 3..0 hold half the number. -/
def putRw (r : Reg) : Word := BitVec.ofNat 16 (r.val / 2)
/-- R109 placed: bits 5..4 hold half of the number less 24. -/
def putDp (d : Reg) : Word := BitVec.ofNat 16 (d.val % 8 / 2 * 16)
/-- R110 placed: bits 11..8 and 3..0. -/
def putK8 (k : Byte) : Word := BitVec.ofNat 16 (k.toNat / 16 * 256 + k.toNat % 16)
/-- R111 placed: bits 7..6 and 3..0. -/
def putK6 (k : BitVec 6) : Word := BitVec.ofNat 16 (k.toNat / 16 * 64 + k.toNat % 16)
/-- R112 placed: bits 13, 11..10 and 2..0. -/
def putQ6 (q : BitVec 6) : Word := BitVec.ofNat 16 (q.toNat / 32 * 8192 + q.toNat / 8 % 4 * 1024 + q.toNat % 8)
/-- R113 placed: bits 7..3. -/
def putA5 (a : BitVec 5) : Word := BitVec.ofNat 16 (a.toNat * 8)
/-- R114 placed: bits 10..9 and 3..0. -/
def putA6 (a : BitVec 6) : Word := BitVec.ofNat 16 (a.toNat / 16 * 512 + a.toNat % 16)
/-- R115 placed: bits 11..0. -/
def putK12 (k : BitVec 12) : Word := BitVec.ofNat 16 k.toNat
/-- R116 placed: bits 9..3. -/
def putK7 (k : BitVec 7) : Word := BitVec.ofNat 16 (k.toNat * 8)
/-- R117 placed: bits 2..0. -/
def putB3 (b : BitNo) : Word := BitVec.ofNat 16 b.val
/-- R120 placed: bits 6..4. -/
def putS3 (b : BitNo) : Word := BitVec.ofNat 16 (b.val * 16)
/-- R121 placed: bits 7..4. -/
def putK4 (k : BitVec 4) : Word := BitVec.ofNat 16 (k.toNat * 16)
/-- R118 placed: bits 21..17 of the address in bits 8..4 of the first word, bit 16 in bit 0. -/
def putK22 (k : BitVec 22) : Word := BitVec.ofNat 16 (k.toNat / 131072 * 16 + k.toNat / 65536 % 2)

/-- The words of an instruction, first word first (R100, R125). -/
def encode : Instr → List Word
  | .nop => [0x0000#16]
  | .movw d r => [0x0100#16 ||| putDw d ||| putRw r]
  | .muls d r => [0x0200#16 ||| putD4 d ||| putR4 r]
  | .mulsu d r => [0x0300#16 ||| putD3 d ||| putR3 r]
  | .fmul d r => [0x0308#16 ||| putD3 d ||| putR3 r]
  | .fmuls d r => [0x0380#16 ||| putD3 d ||| putR3 r]
  | .fmulsu d r => [0x0388#16 ||| putD3 d ||| putR3 r]
  | .cpc d r => [0x0400#16 ||| putD5 d ||| putR5 r]
  | .sbc d r => [0x0800#16 ||| putD5 d ||| putR5 r]
  | .add d r => [0x0C00#16 ||| putD5 d ||| putR5 r]
  | .cpse d r => [0x1000#16 ||| putD5 d ||| putR5 r]
  | .cp d r => [0x1400#16 ||| putD5 d ||| putR5 r]
  | .sub d r => [0x1800#16 ||| putD5 d ||| putR5 r]
  | .adc d r => [0x1C00#16 ||| putD5 d ||| putR5 r]
  | .and d r => [0x2000#16 ||| putD5 d ||| putR5 r]
  | .eor d r => [0x2400#16 ||| putD5 d ||| putR5 r]
  | .or d r => [0x2800#16 ||| putD5 d ||| putR5 r]
  | .mov d r => [0x2C00#16 ||| putD5 d ||| putR5 r]
  | .cpi d k => [0x3000#16 ||| putD4 d ||| putK8 k]
  | .sbci d k => [0x4000#16 ||| putD4 d ||| putK8 k]
  | .subi d k => [0x5000#16 ||| putD4 d ||| putK8 k]
  | .ori d k => [0x6000#16 ||| putD4 d ||| putK8 k]
  | .andi d k => [0x7000#16 ||| putD4 d ||| putK8 k]
  | .lddZ d q => [0x8000#16 ||| putD5 d ||| putQ6 q]
  | .lddY d q => [0x8008#16 ||| putD5 d ||| putQ6 q]
  | .stdZ q r => [0x8200#16 ||| putD5 r ||| putQ6 q]
  | .stdY q r => [0x8208#16 ||| putD5 r ||| putQ6 q]
  | .lds d k => [0x9000#16 ||| putD5 d, k]
  | .ldZInc d => [0x9001#16 ||| putD5 d]
  | .ldZDec d => [0x9002#16 ||| putD5 d]
  | .lpmZ d => [0x9004#16 ||| putD5 d]
  | .lpmZInc d => [0x9005#16 ||| putD5 d]
  | .elpmZ d => [0x9006#16 ||| putD5 d]
  | .elpmZInc d => [0x9007#16 ||| putD5 d]
  | .ldYInc d => [0x9009#16 ||| putD5 d]
  | .ldYDec d => [0x900A#16 ||| putD5 d]
  | .ldX d => [0x900C#16 ||| putD5 d]
  | .ldXInc d => [0x900D#16 ||| putD5 d]
  | .ldXDec d => [0x900E#16 ||| putD5 d]
  | .pop d => [0x900F#16 ||| putD5 d]
  | .sts k r => [0x9200#16 ||| putD5 r, k]
  | .stZInc r => [0x9201#16 ||| putD5 r]
  | .stZDec r => [0x9202#16 ||| putD5 r]
  | .xch d => [0x9204#16 ||| putD5 d]
  | .las d => [0x9205#16 ||| putD5 d]
  | .lac d => [0x9206#16 ||| putD5 d]
  | .lat d => [0x9207#16 ||| putD5 d]
  | .stYInc r => [0x9209#16 ||| putD5 r]
  | .stYDec r => [0x920A#16 ||| putD5 r]
  | .stX r => [0x920C#16 ||| putD5 r]
  | .stXInc r => [0x920D#16 ||| putD5 r]
  | .stXDec r => [0x920E#16 ||| putD5 r]
  | .push r => [0x920F#16 ||| putD5 r]
  | .com d => [0x9400#16 ||| putD5 d]
  | .neg d => [0x9401#16 ||| putD5 d]
  | .swap d => [0x9402#16 ||| putD5 d]
  | .inc d => [0x9403#16 ||| putD5 d]
  | .asr d => [0x9405#16 ||| putD5 d]
  | .lsr d => [0x9406#16 ||| putD5 d]
  | .ror d => [0x9407#16 ||| putD5 d]
  | .dec d => [0x940A#16 ||| putD5 d]
  | .bset b => [0x9408#16 ||| putS3 b]
  | .bclr b => [0x9488#16 ||| putS3 b]
  | .ijmp => [0x9409#16]
  | .eijmp => [0x9419#16]
  | .des k => [0x940B#16 ||| putK4 k]
  | .ret => [0x9508#16]
  | .reti => [0x9518#16]
  | .sleep => [0x9588#16]
  | .brk => [0x9598#16]
  | .wdr => [0x95A8#16]
  | .lpm => [0x95C8#16]
  | .elpm => [0x95D8#16]
  | .spm => [0x95E8#16]
  | .spmZInc => [0x95F8#16]
  | .icall => [0x9509#16]
  | .eicall => [0x9519#16]
  | .jmp k => [0x940C#16 ||| putK22 k, k.extractLsb' 0 16]
  | .call k => [0x940E#16 ||| putK22 k, k.extractLsb' 0 16]
  | .adiw d k => [0x9600#16 ||| putDp d ||| putK6 k]
  | .sbiw d k => [0x9700#16 ||| putDp d ||| putK6 k]
  | .cbi a b => [0x9800#16 ||| putA5 a ||| putB3 b]
  | .sbic a b => [0x9900#16 ||| putA5 a ||| putB3 b]
  | .sbi a b => [0x9A00#16 ||| putA5 a ||| putB3 b]
  | .sbis a b => [0x9B00#16 ||| putA5 a ||| putB3 b]
  | .mul d r => [0x9C00#16 ||| putD5 d ||| putR5 r]
  | .inIo d a => [0xB000#16 ||| putD5 d ||| putA6 a]
  | .outIo a r => [0xB800#16 ||| putD5 r ||| putA6 a]
  | .rjmp k => [0xC000#16 ||| putK12 k]
  | .rcall k => [0xD000#16 ||| putK12 k]
  | .ldi d k => [0xE000#16 ||| putD4 d ||| putK8 k]
  | .brbs b k => [0xF000#16 ||| putB3 b ||| putK7 k]
  | .brbc b k => [0xF400#16 ||| putB3 b ||| putK7 k]
  | .bld d b => [0xF800#16 ||| putD5 d ||| putB3 b]
  | .bst d b => [0xFA00#16 ||| putD5 d ||| putB3 b]
  | .sbrc d b => [0xFC00#16 ||| putD5 d ||| putB3 b]
  | .sbrs d b => [0xFE00#16 ||| putD5 d ||| putB3 b]

/-- The first word of an instruction: the `op` of its pseudocode (R15). -/
def opWord (i : Instr) : Word := (encode i).headD 0#16

end Sys2Proof
end

