-- ==== Sys2Proof/Config.lean ====
section
/-! DEFINITION. What is fixed when the CPU is constructed (00_scope.md R6, R9), and the free values: constants without a
body for what the spec leaves open, so that no proof can see a value of one. Among them the memory subsystem's answers and
side effects, which the spec takes as an oracle (R8). -/

namespace Sys2Proof

/-- The width of the program counter, `PC_BITS` ∈ {16, 22}, "fixed when the CPU is constructed" (R6). -/
inductive PcWidth where
  | pc16
  | pc22
deriving DecidableEq, Repr

/-- The parameters of the machine that an instruction's result depends on (R6, R9). They are plain data held in State and
no step changes them, so a statement about every state is a statement about every choice of them (log 1, log 2). -/
structure Params where
  /-- `PC_BITS` (R6). -/
  pcWidth    : PcWidth
  /-- `SBC_Z_STICKY`, the Z rule of SBC, SBCI and CPC (R204). -/
  sbcZSticky : Bool
deriving DecidableEq, Repr

namespace Machine

/-- What the backend does with accesses of a region of addresses, of data or of program words (R8, R70; log 10). -/
inductive RegionKind where
  /-- Plain memory: a read answers what is held, a write is kept. -/
  | ram
  /-- A read answers what is held, a write answers false. -/
  | readOnly
  /-- A read answers None, a write is kept. -/
  | writeOnly
  /-- A read answers None, a write answers false. -/
  | absent
  /-- A port: whether an access succeeds and what a read gives are free values; nothing is kept, and no other address is
  touched. -/
  | device
  /-- The oracle of R8: whether an access succeeds and what a read gives are free values, and so is all that the backend
  holds, and lets be accessed, after the access. -/
  | oracle
deriving DecidableEq, Repr

/-- A region of the backend's map of an address space: `size` addresses from `base`. -/
structure Region where
  base : Nat
  size : Nat
  kind : RegionKind
deriving DecidableEq, Repr

/-- One call of the core on its port (R70, R89), as offered, whether or not the backend accepted it. -/
inductive BusAccess where
  | progRead (wa : Nat)
  | dataRead (a : Nat)
  | dataWrite (a : Nat) (v : Byte)
deriving DecidableEq, Repr

end Machine

/-! A free value of the port is a function of the number of the draw (log 6) and of what the core offers the backend, so that
nothing makes the answers to two different accesses alike, or those at two draws. DESIGN CHOICE (log 20): it is a function of
nothing else, so two states of equal `draws` get the same answer to the same access, and the same aftermath of it. -/

namespace Config

/-- FREE VALUE. The n-th draw for `cycles` after a failed step, before the bound `c ≥ c0` is applied (R721,
log 5). DESIGN CHOICE (log 20): a function of the number of the draw alone, so two failures at equal `draws` share it. -/
opaque failedCycles : Nat → BitVec 64

/-- FREE VALUE. The n-th draw for what the backend holds at an address after a write of a byte to it failed (R77, log 11). -/
opaque failedWriteByte : Nat → Word → Byte → Byte

/-- FREE VALUE. The n-th draw for a data read of an address answered by a device or an oracle: None, or some byte (R8, R70,
R89, log 10). -/
opaque deviceRead : Nat → Word → Option Byte

/-- FREE VALUE. The n-th draw for a data write of a byte to an address answered by a device or an oracle: true or false (R8,
R70, R89, log 10). -/
opaque deviceWrite : Nat → Word → Byte → Bool

/-- FREE VALUE. The n-th draw for a program read of a word address answered by a device or an oracle: None, or some word
(R8, R70, R89, log 10). -/
opaque programRead : Nat → BitVec 32 → Option Word

/-- FREE VALUE. The data bytes the backend holds after an access with side effects, the n-th draw (R8, R89, log 10). -/
opaque oracleBytes : Nat → Machine.BusAccess → List (Word × Byte)

/-- FREE VALUE. The program words that exist after an access with side effects, the n-th draw (R8, R89, R94, log 10). -/
opaque oracleWords : Nat → Machine.BusAccess → List (BitVec 32 × Word)

/-- FREE VALUE. The map of the data space after an access with side effects, the n-th draw (R8, log 10). -/
opaque oracleRegions : Nat → Machine.BusAccess → List Machine.Region

/-- FREE VALUE. The map of the program space after an access with side effects, the n-th draw (R8, log 10). -/
opaque oracleProgRegions : Nat → Machine.BusAccess → List Machine.Region

end Config

end Sys2Proof
end

