-- ==== Sys2Proof/Machine/State.lean ====
section
/-! DEFINITION. The state of the machine as plain data (10_state.md R30..R63), the backend it reaches through its port
(20_memory.md R70..R77), the six failures of a step (60_exceptions.md R600..R606) and the refusals. -/

namespace Sys2Proof.Machine

/-- Which address space a read was in (R600). -/
inductive Space where
  | program
  | data
deriving DecidableEq, Repr

/-- The six kinds of failure a step can end in, with their payloads (R600..R606). A failing step is a NEXT state whose
`result` is the failure, with every effect before the failing point kept (R620, log 4): no step answers
`Host.Outcome.fault`, so raising one never hides a state the hardware goes on from (safe). -/
inductive Fault where
  /-- Raised by any program or data read the backend answers None to (R600). `addr` is a word address in the program space
  and a byte address in the data space. Safe: the state after it is that of R620. -/
  | addressUnreadable (space : Space) (addr : Nat)
  /-- Raised by any data write the backend answers false to (R601). Safe: the state after it is that of R620. -/
  | addressUnwritable (addr : Nat) (value : Byte)
  /-- Raised by a fetched word that is no instruction, unless the policy is DoNop (R602, R508). Safe, as above. -/
  | unknownOpcode (pc0 : PcWord) (op : Word)
  /-- Raised by EIJMP, EICALL and the three ELPM forms with a 16-bit PC (R603). Safe, as above. -/
  | invalidOperation (pc0 : PcWord) (op : Word)
  /-- Raised by SPM, SPM Z+ and DES (R604). Safe, as above. -/
  | notImplemented (pc0 : PcWord) (op : Word)
  /-- Raised by BREAK (R605). Safe, as above. -/
  | breakInterrupt (pc0 : PcWord)
deriving DecidableEq, Repr

/-- Why the model gives a word no meaning. -/
inductive Refusal where
  /-- Raised by an arm of exec whose instruction has no meaning yet. Safe: the run stops. -/
  | notModelled (mnemonic : String)
  /-- Raised by the 28 auto-modify words whose register is a byte of their own pointer: `Refused(pc0, op)` (R131, R731).
  Safe: the run stops, and the spec itself refuses the word. -/
  | ownPointer (pc0 : PcWord) (op : Word)
deriving DecidableEq, Repr

/-- The eight status flags (R40). `toByte` and `ofByte` of Machine/Flags.lean are the composite view of R41. -/
structure Sreg where
  /-- bit 0, carry -/
  c : Bool
  /-- bit 1, zero -/
  z : Bool
  /-- bit 2, negative -/
  n : Bool
  /-- bit 3, signed overflow -/
  v : Bool
  /-- bit 4, "S = N xor V", stored (R42) -/
  s : Bool
  /-- bit 5, half-carry -/
  h : Bool
  /-- bit 6, "user bit" -/
  t : Bool
  /-- bit 7, "global interrupt enable" (R44: it enables nothing) -/
  i : Bool
deriving DecidableEq, Repr

/-- `invalidOpcodePolicy` (R55). -/
inductive Policy where
  | throwException
  | doNop
  /-- "the last is reserved; treat as ThrowException" -/
  | emulatePhysical
deriving DecidableEq, Repr

/-- Program memory: the words that exist, by word address, addresses strictly rising (R70, R71; log 8). -/
abbrev Program := List (Nat × Word)

/-- Data memory: the bytes that differ from what an unlisted address reads as, addresses strictly rising (R70, R72; log 9). -/
abbrev Memory := List Host.Cell

/-- What a Step returned to its caller (R710, R607). -/
inductive StepResult where
  /-- No Step has been made yet. -/
  | notStepped
  /-- `Ok(n)`: the cycles the step consumed. -/
  | ok (n : Nat)
  /-- `Err(kind, payload)`. -/
  | err (f : Fault)
deriving DecidableEq, Repr

/-- The whole state: the core's (R30..R57), the backend's as plain data, and three fields of the model's own. -/
structure State where
  /-- PC_BITS and SBC_Z_STICKY, fixed at construction (R6, R9; log 1, log 2) -/
  params   : Params
  /-- R0..R31 (R30) -/
  regs     : Vector Byte 32
  /-- the program counter, a word address, masked to PC_BITS on every write (R33; log 13) -/
  pc       : PcWord
  /-- the stack pointer (R37) -/
  sp       : Word
  /-- the status register (R40, R41) -/
  sreg     : Sreg
  /-- R50 -/
  eind     : Byte
  /-- R52 -/
  rampx    : Byte
  /-- R52 -/
  rampy    : Byte
  /-- R51 -/
  rampz    : Byte
  /-- the 64-bit cycle counter (R53) -/
  cycles   : BitVec 64
  /-- the sleep bit (R54) -/
  asleep   : Bool
  /-- `invalidOpcodePolicy` (R55) -/
  policy   : Policy
  /-- the backend's program memory (R70, R71; log 8) -/
  prog     : Program
  /-- the backend's data memory (R70, R72; log 9) -/
  data     : Memory
  /-- the backend's map of the data space, the first region that holds an address decides; RAM elsewhere (R8; log 10) -/
  regions  : List Region
  /-- the backend's map of the program space, likewise; elsewhere the words listed exist (R8; log 10) -/
  progRegions : List Region
  /-- the model's own: how many free values have been drawn (log 6) -/
  draws    : Nat
  /-- the model's own: the calls the last Step made on the port, oldest first (R89, R90; log 7) -/
  accesses : List BusAccess
  /-- the model's own: what the last Step returned (R710, R607; log 7) -/
  result   : StepResult
deriving DecidableEq, Repr

/-- The machine after construction and Reset (R63, R700, R702): `pc`, SP, SREG, `cycles`, `asleep` and the policy as the
spec says. DESIGN CHOICE where the spec gives none: PC_BITS = 16 (log 1), the registers 0x00 (log 3), nothing listed in
the backend (log 8, log 9, log 10), and the model's own fields (log 6, log 7). -/
def State.reset : State where
  params   := ⟨.pc16, false⟩
  regs     := Vector.replicate 32 0#8
  pc       := 0#22
  sp       := 0#16
  sreg     := ⟨false, false, false, false, false, false, false, false⟩
  eind     := 0#8
  rampx    := 0#8
  rampy    := 0#8
  rampz    := 0#8
  cycles   := 0#64
  asleep   := false
  policy   := .throwException
  prog     := []
  data     := []
  regions  := []
  progRegions := []
  draws    := 0
  accesses := []
  result   := .notStepped

/-- The outcome of a step or of a meaning. -/
abbrev Outcome := Host.Outcome State Fault Refusal

end Sys2Proof.Machine
end

