-- ==== Sys2Proof/Machine/Flags.lean ====
section
/-! DEFINITION. The status register's byte view (10_state.md R40, R41) and every flag computation of 41_arith_logic.md. -/

namespace Sys2Proof.Machine

namespace Sreg

/-- "SREG = I:T:H:S:V:N:Z:C (I in bit 7) at every moment" (R41). -/
def toByte (f : Sreg) : Byte :=
  BitVec.ofBool f.i ++ BitVec.ofBool f.t ++ BitVec.ofBool f.h ++ BitVec.ofBool f.s
    ++ BitVec.ofBool f.v ++ BitVec.ofBool f.n ++ BitVec.ofBool f.z ++ BitVec.ofBool f.c

/-- "writing SREG assigns all eight flags atomically" (R41). -/
def ofByte (b : Byte) : Sreg where
  c := b.getLsbD 0
  z := b.getLsbD 1
  n := b.getLsbD 2
  v := b.getLsbD 3
  s := b.getLsbD 4
  h := b.getLsbD 5
  t := b.getLsbD 6
  i := b.getLsbD 7

/-- `SREG[s]` (R40). -/
def bit (f : Sreg) : BitNo → Bool
  | 0 => f.c
  | 1 => f.z
  | 2 => f.n
  | 3 => f.v
  | 4 => f.s
  | 5 => f.h
  | 6 => f.t
  | 7 => f.i

/-- `SREG[s] <- b`: "a write of one flag changes only that flag and does not recompute S" (R61, R503, R504). -/
def setBit (f : Sreg) (s : BitNo) (b : Bool) : Sreg :=
  match s with
  | 0 => { f with c := b }
  | 1 => { f with z := b }
  | 2 => { f with n := b }
  | 3 => { f with v := b }
  | 4 => { f with s := b }
  | 5 => { f with h := b }
  | 6 => { f with t := b }
  | 7 => { f with i := b }

end Sreg

/-- Bit k of a byte (R10). -/
def bitOf (b : Byte) (k : Nat) : Bool := b.getLsbD k

/-- `NZS(res, v)` (R200). -/
def nzs (res : Byte) (v : Bool) (f : Sreg) : Sreg :=
  { f with n := bitOf res 7, z := res == 0#8, v := v, s := xor (bitOf res 7) v }

/-- `AddFlags(rd, rr, res)` (R201). -/
def addFlags (rd rr res : Byte) (f : Sreg) : Sreg :=
  nzs res
    (bitOf rd 7 && bitOf rr 7 && !bitOf res 7 || !bitOf rd 7 && !bitOf rr 7 && bitOf res 7)
    { f with
      h := bitOf rd 3 && bitOf rr 3 || bitOf rr 3 && !bitOf res 3 || !bitOf res 3 && bitOf rd 3
      c := bitOf rd 7 && bitOf rr 7 || bitOf rr 7 && !bitOf res 7 || !bitOf res 7 && bitOf rd 7 }

/-- `SubFlags(rd, rr, res)` (R202). -/
def subFlags (rd rr res : Byte) (f : Sreg) : Sreg :=
  nzs res
    (bitOf rd 7 && !bitOf rr 7 && !bitOf res 7 || !bitOf rd 7 && bitOf rr 7 && bitOf res 7)
    { f with
      h := !bitOf rd 3 && bitOf rr 3 || bitOf rr 3 && bitOf res 3 || bitOf res 3 && !bitOf rd 3
      c := !bitOf rd 7 && bitOf rr 7 || bitOf rr 7 && bitOf res 7 || bitOf res 7 && !bitOf rd 7 }

/-- `LogicFlags(res)` (R203). -/
def logicFlags (res : Byte) (f : Sreg) : Sreg := nzs res false f

/-- `SbcZ(res, zold)` (R204): Z alone. -/
def sbcZ (sticky : Bool) (res : Byte) (zold : Bool) (f : Sreg) : Sreg :=
  { f with z := (res == 0#8) && (if sticky then zold else true) }

/-- The flags of SBC, SBCI and CPC: "call SubFlags and then SbcZ", with zold the Z of before (R204). -/
def sbcFlags (sticky : Bool) (rd rr res : Byte) (f : Sreg) : Sreg :=
  sbcZ sticky res f.z (subFlags rd rr res f)

/-- The flags of COM: `NZS(res, 0)` and C = 1 (R222). -/
def comFlags (res : Byte) (f : Sreg) : Sreg := { nzs res false f with c := true }

/-- The flags of LSR, ASR and ROR: C = rd[0], then `NZS(res, res[7] xor rd[0])`; for LSR res[7] is 0 (R223..R225). -/
def shiftFlags (rd res : Byte) (f : Sreg) : Sreg :=
  { nzs res (xor (bitOf res 7) (bitOf rd 0)) f with c := bitOf rd 0 }

/-- The flags of ADIW: `rdh7` is bit 7 of the high byte before, `res` the 16-bit result (R227). -/
def adiwFlags (rdh7 : Bool) (res : Word) (f : Sreg) : Sreg :=
  let n := res.getLsbD 15
  { f with n := n, v := n && !rdh7, c := !n && rdh7, z := res == 0#16, s := xor n (n && !rdh7) }

/-- The flags of SBIW (R228). -/
def sbiwFlags (rdh7 : Bool) (res : Word) (f : Sreg) : Sreg :=
  let n := res.getLsbD 15
  { f with n := n, v := !n && rdh7, c := n && !rdh7, z := res == 0#16, s := xor n (!n && rdh7) }

/-- The flags of the multiplies: C is bit 15 of the unshifted product, Z is of the value written to R1:R0 (R235). -/
def mulFlags (product written : Word) (f : Sreg) : Sreg :=
  { f with c := product.getLsbD 15, z := written == 0#16 }

end Sys2Proof.Machine
end

