-- ==== Sys2Proof/Machine/Memory.lean ====
section
/-! DEFINITION. The backend's memories as lists of cells in one canonical form: addresses strictly rising, nothing listed
that an unlisted address already reads as. Reading, writing, and the map of regions. -/

namespace Sys2Proof.Machine

namespace Cells

variable {α : Type}

/-- What is listed at an address. -/
def lookup : List (Nat × α) → Nat → Option α
  | [], _ => none
  | (b, v) :: m, a => if a = b then some v else lookup m a

/-- List `v` at `a`, in place of what was listed there, keeping the addresses rising. -/
def insert : List (Nat × α) → Nat → α → List (Nat × α)
  | [], a, v => [(a, v)]
  | (b, w) :: m, a, v =>
    if a < b then (a, v) :: (b, w) :: m
    else if a = b then (a, v) :: m
    else (b, w) :: insert m a v

/-- List nothing at `a`. -/
def erase : List (Nat × α) → Nat → List (Nat × α)
  | [], _ => []
  | (b, w) :: m, a => if a = b then erase m a else (b, w) :: erase m a

/-- The addresses are at least `lo` and strictly rising. -/
def risingFrom (lo : Nat) : List (Nat × α) → Bool
  | [] => true
  | (a, _) :: m => decide (lo ≤ a) && risingFrom (a + 1) m

/-- Every listed address is below `top`. -/
def below (top : Nat) (m : List (Nat × α)) : Bool := m.all fun c => decide (c.1 < top)

end Cells

/-- What a data byte that nothing has written reads as. DESIGN CHOICE: the spec leaves it to the backend (R96, log 9). -/
def unlistedByte : Byte := 0#8

/-- The number of data addresses (R72). -/
def dataSpace : Nat := 65536

/-- The number of program-word addresses a read of the port can name: an unsigned 32-bit value (R7, R70). -/
def programSpace : Nat := 4294967296

namespace Memory

/-- The byte held at a data address. -/
def read (m : Memory) (a : Nat) : Byte := (Cells.lookup m a).getD unlistedByte

/-- Hold `v` at a data address: the value an unlisted address reads as is not listed. -/
def write (m : Memory) (a : Nat) (v : Byte) : Memory :=
  if v = unlistedByte then Cells.erase m a else Cells.insert m a v

/-- The memory that holds the bytes of a list, the first of an address deciding, and nothing else. -/
def ofBytes (l : List (Word × Byte)) : Memory := l.foldr (fun c m => write m c.1.toNat c.2) []

/-- The canonical form of data memory. -/
def wf (m : Memory) : Bool :=
  Cells.risingFrom 0 m && Cells.below dataSpace m && m.all fun c => decide (c.2 ≠ unlistedByte)

end Memory

namespace Program

/-- The program word at a word address, none where no word exists (R70). -/
def word (p : Program) (wa : Nat) : Option Word := Cells.lookup p wa

/-- Make a word exist. The core has no such operation (R70, R94): it is the backend's or the host's. -/
def setWord (p : Program) (wa : Nat) (w : Word) : Program := Cells.insert p wa w

/-- Make a word inaccessible. -/
def removeWord (p : Program) (wa : Nat) : Program := Cells.erase p wa

/-- The program memory in which the words of a list exist, the first of an address deciding, and no other. -/
def ofWords (l : List (BitVec 32 × Word)) : Program := l.foldr (fun c p => setWord p c.1.toNat c.2) []

/-- The canonical form of program memory. -/
def wf (p : Program) : Bool := Cells.risingFrom 0 p && Cells.below programSpace p

end Program

/-- The address lies in the region. -/
def Region.holds (r : Region) (a : Nat) : Bool := decide (r.base ≤ a) && decide (a < r.base + r.size)

/-- What the backend does at an address of the space the map is of: the first region that holds it decides, plain memory
where none does (log 10). -/
def regionKind (rs : List Region) (a : Nat) : RegionKind :=
  match rs.find? fun r => r.holds a with
  | some r => r.kind
  | none => .ram

end Sys2Proof.Machine
end

