-- ==== Sys2Proof/Machine/Ops.lean ====
section
/-! DEFINITION. The named operations every meaning is written over: registers and pairs (10_state.md), the three calls of
the port and the access primitives (20_memory.md R70..R81), ending a step (70_reset_and_hazards.md R710), raising a failure
(60_exceptions.md R600..R627) and the return from interrupt beside it. An operation that may raise takes what follows it
as its last argument, which is handed the value read and the state so far. -/

namespace Sys2Proof.Machine

/-! ## Byte order and sign -/

/-- Bits 15..8 (R82, R83). -/
def hiByte (w : Word) : Byte := w.extractLsb' 8 8

/-- Bits 7..0 (R82, R83). -/
def loByte (w : Word) : Byte := w.extractLsb' 0 8

/-- `hi:lo` (R10, R82). -/
def joinBytes (hi lo : Byte) : Word := hi ++ lo

/-! ## Registers -/

/-- `x[i]` (R12, R30). -/
def State.reg (s : State) (i : Reg) : Byte := s.regs[i]

/-- `x[i] <- v` (R12, R30). -/
def State.setReg (s : State) (i : Reg) (v : Byte) : State := { s with regs := s.regs.set i v }

/-- The pair `x[d+1]:x[d]` (R107, R109). -/
def State.pair (s : State) (d : Reg) : Word := joinBytes (s.reg (d + 1)) (s.reg d)

/-- Write a pair, both bytes in one step (R32). -/
def State.setPair (s : State) (d : Reg) (w : Word) : State := (s.setReg d (loByte w)).setReg (d + 1) (hiByte w)

/-- The three pointers (R32). -/
inductive Ptr where
  | x
  | y
  | z
deriving DecidableEq, Repr

/-- The even register of a pointer: X = R27:R26, Y = R29:R28, Z = R31:R30 (R32). -/
def Ptr.low : Ptr → Reg
  | .x => 26
  | .y => 28
  | .z => 30

/-- X, Y or Z (R12, R32). -/
def State.ptr (s : State) (p : Ptr) : Word := s.pair p.low

/-- `X <- v` and likewise Y, Z (R12, R32). -/
def State.setPtr (s : State) (p : Ptr) (w : Word) : State := s.setPair p.low w

/-- The 24-bit program byte address `RAMPZ:Z` (R51). -/
def State.rampzZ (s : State) : BitVec 24 := s.rampz ++ s.ptr .z

/-- Write RAMPZ and Z from a 24-bit address (R429). -/
def State.setRampzZ (s : State) (a : BitVec 24) : State :=
  { s.setPtr .z (a.extractLsb' 0 16) with rampz := a.extractLsb' 16 8 }

/-- Replace SREG. -/
def State.setSreg (s : State) (f : Sreg) : State := { s with sreg := f }

/-! ## The program counter -/

/-- `trunc_PC_BITS` (R33). -/
def maskPc (w : PcWidth) (v : PcWord) : PcWord :=
  match w with
  | .pc16 => v &&& 0xFFFF#22
  | .pc22 => v

/-- `pc <- v`: "PC is always masked to its configured width … after any assignment" (R33). -/
def State.setPc (s : State) (v : PcWord) : State := { s with pc := maskPc s.params.pcWidth v }

/-- `pc <- pc + k` for a signed word offset (R34, R115, R116). -/
def State.jumpBy {n : Nat} (s : State) (k : BitVec n) : State := s.setPc (s.pc + k.signExtend 22)

/-- The address of a one-word instruction being executed: "PC after fetch, minus one word" (R15, R605; log 13). -/
def State.pc0 (s : State) : PcWord := maskPc s.params.pcWidth (s.pc - 1#22)

/-! ## Ending a step -/

/-- The end of a successful step: `cycles <- trunc_64(c0 + n)`, `return Ok(n)` (R53, R710, R720). -/
def finish (n : Nat) (s : State) : Outcome :=
  .next { s with cycles := s.cycles + BitVec.ofNat 64 n, result := .ok n }

/-- `cycles` after a failed step: any value not below the count before it (R721, log 5). -/
def cyclesAfterFailure (c0 : BitVec 64) (draw : Nat) : BitVec 64 :=
  if c0 ≤ Config.failedCycles draw then Config.failedCycles draw else c0

/-- What a failing step leaves: nothing saved, no mode or mask changed, no control transferred (R607, R625); every effect
so far kept (R620); the failure handed to the caller; `cycles` one more after BREAK (R605) and open otherwise (R721). -/
def State.failed (s : State) (f : Fault) : State :=
  match f with
  | .breakInterrupt _ => { s with cycles := s.cycles + 1#64, result := .err f }
  | _ => { s with cycles := cyclesAfterFailure s.cycles s.draws, draws := s.draws + 1, result := .err f }

/-- `raise E(info)`: taking a failure, the one way any instruction takes it (R14, R620, R625; log 4). -/
def raise (f : Fault) (s : State) : Outcome := .next (s.failed f)

/-- End the step of one of the 28 own-pointer words: `Refused(pc0, op)` (R131, R731). -/
def refuseOwnPointer (i : Instr) (s : State) : Outcome := .refused (.ownPointer s.pc0 (opWord i))

/-! ## The port (R70) -/

/-- Record a call on the port (R89, R90; log 7). -/
def State.called (s : State) (x : BusAccess) : State := { s with accesses := s.accesses ++ [x] }

/-- After the access `x`, which has side effects, what the backend holds and what it lets be accessed are free values: which addresses
have side effects, and which, "is the backend's" (R8, R89; log 10, log 20). -/
def State.disturbed (s : State) (x : BusAccess) : State :=
  { s with
    data := Memory.ofBytes (Config.oracleBytes s.draws x)
    prog := Program.ofWords (Config.oracleWords s.draws x)
    regions := Config.oracleRegions s.draws x
    progRegions := Config.oracleProgRegions s.draws x
    draws := s.draws + 1 }

/-- A free value drawn. -/
def State.drawn (s : State) : State := { s with draws := s.draws + 1 }

/-- `readProgramMemory(addr: u32) -> Option<u16>` (R70); the answer of a device or an oracle is a free value (log 10,
log 20). -/
def readProgramMemory (wa : BitVec 32) (s : State) : Option Word × State :=
  let s1 := s.called (.progRead wa.toNat)
  match regionKind s.progRegions wa.toNat with
  | .ram | .readOnly => (Program.word s.prog wa.toNat, s1)
  | .writeOnly | .absent => (none, s1)
  | .device => (Config.programRead s.draws wa, s1.drawn)
  | .oracle => (Config.programRead s.draws wa, s1.disturbed (.progRead wa.toNat))

/-- `readDataMemory(addr: u16) -> Option<u8>` (R70); the answer of a device or an oracle is a free value (log 10,
log 20). -/
def readDataMemory (a : Word) (s : State) : Option Byte × State :=
  let s1 := s.called (.dataRead a.toNat)
  match regionKind s.regions a.toNat with
  | .ram | .readOnly => (some (Memory.read s.data a.toNat), s1)
  | .writeOnly | .absent => (none, s1)
  | .device => (Config.deviceRead s.draws a, s1.drawn)
  | .oracle => (Config.deviceRead s.draws a, s1.disturbed (.dataRead a.toNat))

/-- The backend keeps a byte. -/
def State.keepByte (s : State) (a : Word) (v : Byte) : State := { s with data := Memory.write s.data a.toNat v }

/-- After a failed write of `v` the byte the backend holds at that address is a free value (R77, log 11). -/
def State.afterFailedWrite (s : State) (a : Word) (v : Byte) : State :=
  { s.keepByte a (Config.failedWriteByte s.draws a v) with draws := s.draws + 1 }

/-- `writeDataMemory(addr: u16, val: u8) -> bool` (R70); whether a device or an oracle takes the byte is a free value
(log 10, log 20). -/
def writeDataMemory (a : Word) (v : Byte) (s : State) : Bool × State :=
  let s1 := s.called (.dataWrite a.toNat v)
  match regionKind s.regions a.toNat with
  | .ram | .writeOnly => (true, s1.keepByte a v)
  | .readOnly | .absent => (false, s1.afterFailedWrite a v)
  | .device =>
    match Config.deviceWrite s.draws a v with
    | true => (true, s1.drawn)
    | false => (false, s1.drawn.afterFailedWrite a v)
  | .oracle => (Config.deviceWrite s.draws a v, s1.disturbed (.dataWrite a.toNat v))

/-! ## Access primitives (R75..R81) -/

/-- `ProgRead(wa)` (R75). -/
def progRead (wa : BitVec 32) (s : State) (k : Word → State → Outcome) : Outcome :=
  match readProgramMemory wa s with
  | (some w, s1) => k w s1
  | (none, s1) => raise (.addressUnreadable .program wa.toNat) s1

/-- `MemRead(addr, 1)` (R76). -/
def memRead (a : Word) (s : State) (k : Byte → State → Outcome) : Outcome :=
  match readDataMemory a s with
  | (some b, s1) => k b s1
  | (none, s1) => raise (.addressUnreadable .data a.toNat) s1

/-- `MemWrite(addr, 1, v)` (R77). -/
def memWrite (a : Word) (v : Byte) (s : State) (k : State → Outcome) : Outcome :=
  match writeDataMemory a v s with
  | (true, s1) => k s1
  | (false, s1) => raise (.addressUnwritable a.toNat v) s1

/-- `FetchWord()`: `w <- ProgRead(pc); pc <- pc + 1`; a failed read leaves `pc` (R78). -/
def fetchWord (s : State) (k : Word → State → Outcome) : Outcome :=
  progRead (s.pc.zeroExtend 32) s fun w s1 => k w (s1.setPc (s1.pc + 1#22))

/-- Move SP, modulo 2^16 (R38). -/
def State.setSp (s : State) (v : Word) : State := { s with sp := v }

/-- `PushByte(v)`: "push writes then decrements" (R79). -/
def pushByte (v : Byte) (s : State) (k : State → Outcome) : Outcome :=
  memWrite s.sp v s fun s1 => k (s1.setSp (s1.sp - 1#16))

/-- `PopByte()`: "pop increments then reads" (R79). -/
def popByte (s : State) (k : Byte → State → Outcome) : Outcome :=
  let s1 := s.setSp (s.sp + 1#16)
  memRead s1.sp s1 k

/-- `PushRet(a)`: low byte, high byte, and with a 22-bit PC the extension byte, its bits 7..6 zero (R80). -/
def pushRet (a : PcWord) (s : State) (k : State → Outcome) : Outcome :=
  pushByte (a.extractLsb' 0 8) s fun s1 =>
  pushByte (a.extractLsb' 8 8) s1 fun s2 =>
  match s2.params.pcWidth with
  | .pc16 => k s2
  | .pc22 => pushByte ((a.extractLsb' 16 6).zeroExtend 8) s2 k

/-- The return address from its popped bytes `e:h:l`, before the mask: 22 bits of them are kept (R81). -/
def joinRet (e h l : Byte) : PcWord := (e ++ h ++ l).extractLsb' 0 22

/-- `PopRet()`: the bytes in reverse push order; the mask is that of the write of `pc` (R81, R33). -/
def popRet (s : State) (k : PcWord → State → Outcome) : Outcome :=
  match s.params.pcWidth with
  | .pc16 => popByte s fun h s1 => popByte s1 fun l s2 => k (joinRet 0#8 h l) s2
  | .pc22 => popByte s fun e s1 => popByte s1 fun h s2 => popByte s2 fun l s3 => k (joinRet e h l) s3

/-- Returning: `pc <- PopRet()`, then what the return instruction does besides (R309, R310). Of a return from interrupt
nothing else is restored: "no SREG is saved or restored by the core" (R627). -/
def returnTo (s : State) (k : State → Outcome) : Outcome := popRet s fun a s1 => k (s1.setPc a)

/-! ## The step protocol (R710) -/

/-- A Step begins: the model's record of the port starts afresh (log 7). -/
def beginStep (s : State) : State := { s with accesses := [] }

/-- "If asleep, return 0 (no cycles consumed)": no access, nothing changed (R54, R635, R710). -/
def stepAsleep (s : State) : Outcome := .next { s with accesses := [], result := .ok 0 }

/-- The fetch of an instruction's words: the second only where the first is long (R100, R123, R710; log 14). -/
def fetchInstr (s : State) (k : Word → Word → State → Outcome) : Outcome :=
  fetchWord s fun op s1 =>
  match isLong op with
  | true => fetchWord s1 fun op2 s2 => k op op2 s2
  | false => k op 0#16 s1

/-- A fetched word that is no instruction, by `invalidOpcodePolicy`; one cycle under DoNop (R508, R720). -/
def unknownWord (op : Word) (s : State) : Outcome :=
  match s.policy with
  | .doNop => finish 1 s
  | .throwException | .emulatePhysical => raise (.unknownOpcode s.pc0 op) s

/-- `Skip()` and the end of a skip instruction whose condition holds: the look-ahead word is read as data for IsLong, and
the step costs 2, or 3 over a long instruction (R314, R720). -/
def skip (s : State) : Outcome :=
  fetchWord s fun w s1 =>
  match isLong w with
  | true => finish 3 (s1.setPc (s1.pc + 1#22))
  | false => finish 2 s1

/-- A skip instruction: 1 cycle where the condition does not hold (R314, R720). -/
def skipIf (cond : Bool) (s : State) : Outcome :=
  match cond with
  | true => skip s
  | false => finish 1 s

/-- The check of EIJMP, EICALL and ELPM: `InvalidOperation(pc0, op)` with a 16-bit PC, before any access (R603). -/
def needs22 (i : Instr) (s : State) (k : State → Outcome) : Outcome :=
  match s.params.pcWidth with
  | .pc16 => raise (.invalidOperation s.pc0 (opWord i)) s
  | .pc22 => k s

/-! ## A program comes from outside (R8, log 12) -/

/-- The backend given an instruction's two words where the next fetch reads them, in plain program memory, and the core
awake. -/
def State.placeInstr (s : State) (op op2 : Word) : State :=
  { s with
    asleep := false
    progRegions := []
    prog := Program.setWord (Program.setWord s.prog s.pc.toNat op) (maskPc s.params.pcWidth (s.pc + 1#22)).toNat op2 }

end Sys2Proof.Machine
end

