-- ==== Sys2Proof/Machine/Operands.lean ====
section
/-! DEFINITION. Every operand form: the addressing modes of LD, ST, LPM, ELPM (43_data_transfer.md R403, R424..R429), the
I/O addresses (20_memory.md R73), the byte of a program word (R83), and the register forms the spec refuses (R131). -/

namespace Sys2Proof.Machine

/-- The register is a byte of the pointer (R131). -/
def Ptr.isByte (p : Ptr) (r : Reg) : Bool := decide (r = p.low) || decide (r = p.low + 1)

/-- Do `k` unless the register is a byte of the auto-modified pointer, which the spec refuses before any access or write
(R131, R731). -/
def unlessOwn (i : Instr) (p : Ptr) (r : Reg) (s : State) (k : State → Outcome) : Outcome :=
  match p.isByte r with
  | true => refuseOwnPointer i s
  | false => k s

/-- Post-increment: "a <- P; P <- trunc_16(a + 1)", before the access (R403). -/
def postInc (p : Ptr) (s : State) : Word × State := (s.ptr p, s.setPtr p (s.ptr p + 1#16))

/-- Pre-decrement: "a <- trunc_16(P - 1); P <- a", before the access (R403). -/
def preDec (p : Ptr) (s : State) : Word × State := (s.ptr p - 1#16, s.setPtr p (s.ptr p - 1#16))

/-- Displaced: `trunc_16(P + q)`, the pair unchanged (R403, R112). -/
def displaced (p : Ptr) (q : BitVec 6) (s : State) : Word := s.ptr p + q.zeroExtend 16

/-- A 5-bit I/O address is data address `0x0020 + A` (R73, R113). -/
def ioAddr5 (a : BitVec 5) : Word := 0x20#16 + a.zeroExtend 16

/-- A 6-bit I/O address is data address `0x0020 + A` (R73, R114). -/
def ioAddr6 (a : BitVec 6) : Word := 0x20#16 + a.zeroExtend 16

/-- The byte of a program word: "bit 0 selects high byte" (R83). -/
def byteOfWord (odd : Bool) (w : Word) : Byte :=
  match odd with
  | true => hiByte w
  | false => loByte w

/-- The program word a 16-bit byte address names, `a[15:1]`, unmasked (R424). -/
def lpmWordAddr (a : Word) : BitVec 32 := (a >>> 1).zeroExtend 32

/-- The program word a 24-bit byte address names, `a[23:1]`, unmasked (R427). -/
def elpmWordAddr (a : BitVec 24) : BitVec 32 := (a >>> 1).zeroExtend 32

/-- The end of a load: `x[d] <- MemRead(a, 1)`, 2 cycles (R403, R720). -/
def loadFrom (d : Reg) (a : Word) (s : State) : Outcome := memRead a s fun v s1 => finish 2 (s1.setReg d v)

/-- The end of a store: `MemWrite(a, 1, x[r])`, "the value of Rr read at the access", 2 cycles (R403, R720). -/
def storeTo (a : Word) (r : Reg) (s : State) : Outcome := memWrite a (s.reg r) s fun s1 => finish 2 s1

/-- The end of LPM: the byte of program word `a >> 1` into Rd, 3 cycles (R424..R426, R720). -/
def lpmFrom (d : Reg) (a : Word) (s : State) : Outcome :=
  progRead (lpmWordAddr a) s fun w s1 => finish 3 (s1.setReg d (byteOfWord (a.getLsbD 0) w))

/-- The end of ELPM, over the 24-bit byte address (R427..R429, R720). -/
def elpmFrom (d : Reg) (a : BitVec 24) (s : State) : Outcome :=
  progRead (elpmWordAddr a) s fun w s1 => finish 3 (s1.setReg d (byteOfWord (a.getLsbD 0) w))

/-- XCH, LAS, LAC, LAT: read `*Z`, write `*Z` with `f m x[d]`, then `x[d] <- m`, 2 cycles (R430..R433, R720). -/
def exchangeZ (f : Byte → Byte → Byte) (d : Reg) (s : State) : Outcome :=
  memRead (s.ptr .z) s fun m s1 =>
  memWrite (s.ptr .z) (f m (s.reg d)) s1 fun s2 => finish 2 (s2.setReg d m)

/-- CBI and SBI: read the byte, write `f v`, 2 cycles (R505, R506, R720). -/
def modifyIo (a : Word) (f : Byte → Byte) (s : State) : Outcome :=
  memRead a s fun v s1 => memWrite a (f v) s1 fun s2 => finish 2 s2

/-- The byte with only bit b set: `1 << b` (R505, R506). -/
def bitMask (b : BitNo) : Byte := 1#8 <<< b.val

/-- `v` with bit b replaced (R501). -/
def withBit (v : Byte) (b : BitNo) (x : Bool) : Byte := if x then v ||| bitMask b else v &&& ~~~(bitMask b)

/-- The cost of RCALL and ICALL: one fetch and one cycle per pushed byte (R305, R307, R720). -/
def callCost : PcWidth → Nat
  | .pc16 => 3
  | .pc22 => 4

/-- The cost of CALL: two fetches and one cycle per pushed byte (R306, R720). -/
def longCallCost : PcWidth → Nat
  | .pc16 => 4
  | .pc22 => 5

/-- The cost of RET and RETI (R309, R310, R720). -/
def returnCost : PcWidth → Nat
  | .pc16 => 4
  | .pc22 => 5

end Sys2Proof.Machine
end

