-- ==== Sys2Proof/Machine/Arith.lean ====
section
/-! DEFINITION. Add, subtract, compare and the one-operand arithmetic (41_arith_logic.md R205..R216). Each runs after the
fetch; operands are read before any register is written; every cost is 1 (R720). -/

namespace Sys2Proof.Machine

/-- The carry flag as a byte 0 or 1, the `c` of R206, R209, R210, R212. -/
def carryByte (s : State) : Byte := (BitVec.ofBool s.sreg.c).zeroExtend 8

/-- End a one-cycle instruction that writes Rd and SREG. -/
def writeBoth (d : Reg) (res : Byte) (f : Sreg) (s : State) : Outcome := finish 1 ((s.setReg d res).setSreg f)

/-- End a one-cycle instruction that writes SREG alone: the compares (R211..R213). -/
def writeFlags (f : Sreg) (s : State) : Outcome := finish 1 (s.setSreg f)

/-- `ADD Rd, Rr` (R205). -/
def execAdd (d r : Reg) (s : State) : Outcome :=
  let res := s.reg d + s.reg r
  writeBoth d res (addFlags (s.reg d) (s.reg r) res s.sreg) s

/-- `ADC Rd, Rr` (R206). -/
def execAdc (d r : Reg) (s : State) : Outcome :=
  let res := s.reg d + s.reg r + carryByte s
  writeBoth d res (addFlags (s.reg d) (s.reg r) res s.sreg) s

/-- `SUB Rd, Rr` (R207). -/
def execSub (d r : Reg) (s : State) : Outcome :=
  let res := s.reg d - s.reg r
  writeBoth d res (subFlags (s.reg d) (s.reg r) res s.sreg) s

/-- `SUBI Rd, K` (R208). -/
def execSubi (d : Reg) (k : Byte) (s : State) : Outcome :=
  let res := s.reg d - k
  writeBoth d res (subFlags (s.reg d) k res s.sreg) s

/-- `SBC Rd, Rr` (R209, R204). -/
def execSbc (d r : Reg) (s : State) : Outcome :=
  let res := s.reg d - s.reg r - carryByte s
  writeBoth d res (sbcFlags s.params.sbcZSticky (s.reg d) (s.reg r) res s.sreg) s

/-- `SBCI Rd, K` (R210, R204). -/
def execSbci (d : Reg) (k : Byte) (s : State) : Outcome :=
  let res := s.reg d - k - carryByte s
  writeBoth d res (sbcFlags s.params.sbcZSticky (s.reg d) k res s.sreg) s

/-- `CP Rd, Rr`: "Registers written: none" (R211). -/
def execCp (d r : Reg) (s : State) : Outcome :=
  writeFlags (subFlags (s.reg d) (s.reg r) (s.reg d - s.reg r) s.sreg) s

/-- `CPC Rd, Rr` (R212, R204). -/
def execCpc (d r : Reg) (s : State) : Outcome :=
  writeFlags (sbcFlags s.params.sbcZSticky (s.reg d) (s.reg r) (s.reg d - s.reg r - carryByte s) s.sreg) s

/-- `CPI Rd, K` (R213). -/
def execCpi (d : Reg) (k : Byte) (s : State) : Outcome := writeFlags (subFlags (s.reg d) k (s.reg d - k) s.sreg) s

/-- `NEG Rd`: "treating NEG as 0 − rd" (R214). -/
def execNeg (d : Reg) (s : State) : Outcome :=
  let res := 0#8 - s.reg d
  writeBoth d res (subFlags 0#8 (s.reg d) res s.sreg) s

/-- `INC Rd`: "C,H untouched" (R215). -/
def execInc (d : Reg) (s : State) : Outcome :=
  let res := s.reg d + 1#8
  writeBoth d res (nzs res (res == 0x80#8) s.sreg) s

/-- `DEC Rd`: "C,H untouched" (R216). -/
def execDec (d : Reg) (s : State) : Outcome :=
  let res := s.reg d - 1#8
  writeBoth d res (nzs res (res == 0x7F#8) s.sreg) s

end Sys2Proof.Machine
end

