-- ==== Sys2Proof/Machine/BitSystem.lean ====
section
/-! DEFINITION. Bit, SREG and system instructions (44_bit_system.md R501..R515). -/

namespace Sys2Proof.Machine

/-- `BLD Rd, b` (R501). -/
def execBld (d : Reg) (b : BitNo) (s : State) : Outcome := finish 1 (s.setReg d (withBit (s.reg d) b s.sreg.t))

/-- `BST Rd, b` (R502). -/
def execBst (d : Reg) (b : BitNo) (s : State) : Outcome := finish 1 (s.setSreg { s.sreg with t := bitOf (s.reg d) b })

/-- `BSET s`: the one flag, S not recomputed (R503). -/
def execBset (b : BitNo) (s : State) : Outcome := finish 1 (s.setSreg (s.sreg.setBit b true))

/-- `BCLR s` (R504). -/
def execBclr (b : BitNo) (s : State) : Outcome := finish 1 (s.setSreg (s.sreg.setBit b false))

/-- `CBI A, b` (R505). -/
def execCbi (a : BitVec 5) (b : BitNo) (s : State) : Outcome := modifyIo (ioAddr5 a) (fun v => v &&& ~~~(bitMask b)) s

/-- `SBI A, b` (R506). -/
def execSbi (a : BitVec 5) (b : BitNo) (s : State) : Outcome := modifyIo (ioAddr5 a) (fun v => v ||| bitMask b) s

/-- `NOP` (R507). -/
def execNop (s : State) : Outcome := finish 1 s

/-- `SLEEP` (R510). -/
def execSleep (s : State) : Outcome := finish 1 { s with asleep := true }

/-- `BREAK`: "raise BreakInterrupt(pc0)" (R511). -/
def execBrk (s : State) : Outcome := raise (.breakInterrupt s.pc0) s

/-- `WDR`: "no-op (watchdog modeled elsewhere)" (R512). -/
def execWdr (s : State) : Outcome := finish 1 s

/-- `SPM`: "raise NotImplemented(pc0, op)" (R513). -/
def execSpm (s : State) : Outcome := raise (.notImplemented s.pc0 (opWord .spm)) s

/-- `SPM Z+`: NotImplemented, "Z is not changed" (R514). -/
def execSpmZInc (s : State) : Outcome := raise (.notImplemented s.pc0 (opWord .spmZInc)) s

/-- `DES K`: NotImplemented, "every K behaves the same" (R515). -/
def execDes (k : BitVec 4) (s : State) : Outcome := raise (.notImplemented s.pc0 (opWord (.des k))) s

end Sys2Proof.Machine
end

