-- ==== Sys2Proof/Machine/Control.lean ====
section
/-! DEFINITION. Jumps, calls, returns, branches and skips (42_control_flow.md R300..R319). Each runs after the fetch of its
words, with `pc` the address of the word after them (R34). -/

namespace Sys2Proof.Machine

/-- The target of EIJMP and EICALL, `EIND:Z` masked to 22 bits (R303, R308). -/
def eindZ (s : State) : PcWord := (s.eind ++ s.ptr .z).extractLsb' 0 22

/-- `RJMP k` (R300). -/
def execRjmp (k : BitVec 12) (s : State) : Outcome := finish 2 (s.jumpBy k)

/-- `JMP k` (R301). -/
def execJmp (k : BitVec 22) (s : State) : Outcome := finish 3 (s.setPc k)

/-- `IJMP`: bits 21..16 become 0 (R302). -/
def execIjmp (s : State) : Outcome := finish 2 (s.setPc ((s.ptr .z).zeroExtend 22))

/-- `EIJMP` (R303). -/
def execEijmp (s : State) : Outcome := needs22 .eijmp s fun s1 => finish 2 (s1.setPc (eindZ s1))

/-- `RCALL k`: `ret <- pc; PushRet(ret); pc <- ret + k` (R304, R305). -/
def execRcall (k : BitVec 12) (s : State) : Outcome :=
  pushRet s.pc s fun s1 => finish (callCost s.params.pcWidth) (s1.setPc (s.pc + k.signExtend 22))

/-- `CALL k` (R304, R306). -/
def execCall (k : BitVec 22) (s : State) : Outcome :=
  pushRet s.pc s fun s1 => finish (longCallCost s.params.pcWidth) (s1.setPc k)

/-- `ICALL` (R304, R307). -/
def execIcall (s : State) : Outcome :=
  pushRet s.pc s fun s1 => finish (callCost s.params.pcWidth) (s1.setPc ((s.ptr .z).zeroExtend 22))

/-- `EICALL` (R304, R308). -/
def execEicall (s : State) : Outcome :=
  needs22 .eicall s fun s1 => pushRet s1.pc s1 fun s2 => finish (callCost .pc22) (s2.setPc (eindZ s1))

/-- `RET` (R309). -/
def execRet (s : State) : Outcome := returnTo s fun s1 => finish (returnCost s.params.pcWidth) s1

/-- `RETI`: "same, then set I=1" (R310). -/
def execReti (s : State) : Outcome :=
  returnTo s fun s1 => finish (returnCost s.params.pcWidth) (s1.setSreg (s1.sreg.setBit 7 true))

/-- `BRBS s, k`: 2 cycles taken, 1 not taken (R311, R312). -/
def execBrbs (b : BitNo) (k : BitVec 7) (s : State) : Outcome :=
  match s.sreg.bit b with
  | true => finish 2 (s.jumpBy k)
  | false => finish 1 s

/-- `BRBC s, k` (R311, R313). -/
def execBrbc (b : BitNo) (k : BitVec 7) (s : State) : Outcome :=
  match s.sreg.bit b with
  | true => finish 1 s
  | false => finish 2 (s.jumpBy k)

/-- `CPSE Rd, Rr` (R314, R315). -/
def execCpse (d r : Reg) (s : State) : Outcome := skipIf (s.reg d == s.reg r) s

/-- `SBRC Rr, b` (R314, R316). -/
def execSbrc (r : Reg) (b : BitNo) (s : State) : Outcome := skipIf (!bitOf (s.reg r) b) s

/-- `SBRS Rr, b` (R314, R317). -/
def execSbrs (r : Reg) (b : BitNo) (s : State) : Outcome := skipIf (bitOf (s.reg r) b) s

/-- `SBIC A, b`: the I/O read is charged 0 net (R314, R318). -/
def execSbic (a : BitVec 5) (b : BitNo) (s : State) : Outcome :=
  memRead (ioAddr5 a) s fun v s1 => skipIf (!bitOf v b) s1

/-- `SBIS A, b` (R314, R319). -/
def execSbis (a : BitVec 5) (b : BitNo) (s : State) : Outcome :=
  memRead (ioAddr5 a) s fun v s1 => skipIf (bitOf v b) s1

end Sys2Proof.Machine
end

