-- ==== Sys2Proof/Machine/Logic.lean ====
section
/-! DEFINITION. Logic, shifts, rotate and swap (41_arith_logic.md R217..R226). Every cost is 1 (R720). -/

namespace Sys2Proof.Machine

/-- `AND Rd, Rr` (R217). -/
def execAnd (d r : Reg) (s : State) : Outcome :=
  let res := s.reg d &&& s.reg r
  writeBoth d res (logicFlags res s.sreg) s

/-- `ANDI Rd, K` (R218). -/
def execAndi (d : Reg) (k : Byte) (s : State) : Outcome :=
  let res := s.reg d &&& k
  writeBoth d res (logicFlags res s.sreg) s

/-- `OR Rd, Rr` (R219). -/
def execOr (d r : Reg) (s : State) : Outcome :=
  let res := s.reg d ||| s.reg r
  writeBoth d res (logicFlags res s.sreg) s

/-- `ORI Rd, K` (R220). -/
def execOri (d : Reg) (k : Byte) (s : State) : Outcome :=
  let res := s.reg d ||| k
  writeBoth d res (logicFlags res s.sreg) s

/-- `EOR Rd, Rr` (R221). -/
def execEor (d r : Reg) (s : State) : Outcome :=
  let res := s.reg d ^^^ s.reg r
  writeBoth d res (logicFlags res s.sreg) s

/-- `COM Rd`: "res = 0xFF − rd" (R222). -/
def execCom (d : Reg) (s : State) : Outcome :=
  let res := 0xFF#8 - s.reg d
  writeBoth d res (comFlags res s.sreg) s

/-- `LSR Rd` (R223). -/
def execLsr (d : Reg) (s : State) : Outcome :=
  let res := s.reg d >>> 1
  writeBoth d res (shiftFlags (s.reg d) res s.sreg) s

/-- `ASR Rd`: "bit7 preserved" (R224). -/
def execAsr (d : Reg) (s : State) : Outcome :=
  let res := s.reg d >>> 1 ||| s.reg d &&& 0x80#8
  writeBoth d res (shiftFlags (s.reg d) res s.sreg) s

/-- `ROR Rd`: "new_bit7 = old C" (R225, 90_conflicts.md C6). -/
def execRor (d : Reg) (s : State) : Outcome :=
  let res := carryByte s <<< 7 ||| s.reg d >>> 1
  writeBoth d res (shiftFlags (s.reg d) res s.sreg) s

/-- `SWAP Rd`: `rd[3:0]:rd[7:4]`, no flag (R226). -/
def execSwap (d : Reg) (s : State) : Outcome :=
  finish 1 (s.setReg d ((s.reg d).extractLsb' 0 4 ++ (s.reg d).extractLsb' 4 4))

end Sys2Proof.Machine
end

