-- ==== Sys2Proof/Machine/Transfer.lean ====
section
/-! DEFINITION. Data transfer (43_data_transfer.md R400..R437): moves, loads and stores through X, Y, Z, direct loads and
stores, program-memory loads, read-modify-write on `*Z`, the stack and I/O. None writes a flag. -/

namespace Sys2Proof.Machine

/-- `MOV Rd, Rr` (R400). -/
def execMov (d r : Reg) (s : State) : Outcome := finish 1 (s.setReg d (s.reg r))

/-- `MOVW Rd+1:Rd, Rr+1:Rr` (R401). -/
def execMovw (d r : Reg) (s : State) : Outcome := finish 1 (s.setPair d (s.pair r))

/-- `LDI Rd, K` (R402). -/
def execLdi (d : Reg) (k : Byte) (s : State) : Outcome := finish 1 (s.setReg d k)

/-- `LD Rd, X` (R404). -/
def execLdX (d : Reg) (s : State) : Outcome := loadFrom d (s.ptr .x) s

/-- `LD Rd, X+` (R403, R405). -/
def execLdXInc (d : Reg) (s : State) : Outcome :=
  unlessOwn (.ldXInc d) .x d s fun s1 => loadFrom d (postInc .x s1).1 (postInc .x s1).2

/-- `LD Rd, -X` (R403, R406). -/
def execLdXDec (d : Reg) (s : State) : Outcome :=
  unlessOwn (.ldXDec d) .x d s fun s1 => loadFrom d (preDec .x s1).1 (preDec .x s1).2

/-- `LD Rd, Y+` (R403, R407). -/
def execLdYInc (d : Reg) (s : State) : Outcome :=
  unlessOwn (.ldYInc d) .y d s fun s1 => loadFrom d (postInc .y s1).1 (postInc .y s1).2

/-- `LD Rd, -Y` (R403, R408). -/
def execLdYDec (d : Reg) (s : State) : Outcome :=
  unlessOwn (.ldYDec d) .y d s fun s1 => loadFrom d (preDec .y s1).1 (preDec .y s1).2

/-- `LDD Rd, Y+q` (R403, R409). -/
def execLddY (d : Reg) (q : BitVec 6) (s : State) : Outcome := loadFrom d (displaced .y q s) s

/-- `LD Rd, Z+` (R403, R410). -/
def execLdZInc (d : Reg) (s : State) : Outcome :=
  unlessOwn (.ldZInc d) .z d s fun s1 => loadFrom d (postInc .z s1).1 (postInc .z s1).2

/-- `LD Rd, -Z` (R403, R411). -/
def execLdZDec (d : Reg) (s : State) : Outcome :=
  unlessOwn (.ldZDec d) .z d s fun s1 => loadFrom d (preDec .z s1).1 (preDec .z s1).2

/-- `LDD Rd, Z+q` (R403, R412). -/
def execLddZ (d : Reg) (q : BitVec 6) (s : State) : Outcome := loadFrom d (displaced .z q s) s

/-- `ST X, Rr` (R413). -/
def execStX (r : Reg) (s : State) : Outcome := storeTo (s.ptr .x) r s

/-- `ST X+, Rr` (R403, R414). -/
def execStXInc (r : Reg) (s : State) : Outcome :=
  unlessOwn (.stXInc r) .x r s fun s1 => storeTo (postInc .x s1).1 r (postInc .x s1).2

/-- `ST -X, Rr` (R403, R415). -/
def execStXDec (r : Reg) (s : State) : Outcome :=
  unlessOwn (.stXDec r) .x r s fun s1 => storeTo (preDec .x s1).1 r (preDec .x s1).2

/-- `ST Y+, Rr` (R403, R416). -/
def execStYInc (r : Reg) (s : State) : Outcome :=
  unlessOwn (.stYInc r) .y r s fun s1 => storeTo (postInc .y s1).1 r (postInc .y s1).2

/-- `ST -Y, Rr` (R403, R417). -/
def execStYDec (r : Reg) (s : State) : Outcome :=
  unlessOwn (.stYDec r) .y r s fun s1 => storeTo (preDec .y s1).1 r (preDec .y s1).2

/-- `STD Y+q, Rr` (R403, R418). -/
def execStdY (q : BitVec 6) (r : Reg) (s : State) : Outcome := storeTo (displaced .y q s) r s

/-- `ST Z+, Rr` (R403, R419). -/
def execStZInc (r : Reg) (s : State) : Outcome :=
  unlessOwn (.stZInc r) .z r s fun s1 => storeTo (postInc .z s1).1 r (postInc .z s1).2

/-- `ST -Z, Rr` (R403, R420). -/
def execStZDec (r : Reg) (s : State) : Outcome :=
  unlessOwn (.stZDec r) .z r s fun s1 => storeTo (preDec .z s1).1 r (preDec .z s1).2

/-- `STD Z+q, Rr` (R403, R421). -/
def execStdZ (q : BitVec 6) (r : Reg) (s : State) : Outcome := storeTo (displaced .z q s) r s

/-- `LDS Rd, k`, after the fetch of its second word (R422). -/
def execLds (d : Reg) (k : Word) (s : State) : Outcome := loadFrom d k s

/-- `STS k, Rr`, after the fetch of its second word (R423). -/
def execSts (k : Word) (r : Reg) (s : State) : Outcome := storeTo k r s

/-- `LPM` (R424). -/
def execLpm (s : State) : Outcome := lpmFrom 0 (s.ptr .z) s

/-- `LPM Rd, Z` (R425). -/
def execLpmZ (d : Reg) (s : State) : Outcome := lpmFrom d (s.ptr .z) s

/-- `LPM Rd, Z+` (R426). -/
def execLpmZInc (d : Reg) (s : State) : Outcome :=
  unlessOwn (.lpmZInc d) .z d s fun s1 => lpmFrom d (postInc .z s1).1 (postInc .z s1).2

/-- `ELPM` (R427). -/
def execElpm (s : State) : Outcome := needs22 .elpm s fun s1 => elpmFrom 0 s1.rampzZ s1

/-- `ELPM Rd, Z` (R428). -/
def execElpmZ (d : Reg) (s : State) : Outcome := needs22 (.elpmZ d) s fun s1 => elpmFrom d s1.rampzZ s1

/-- `ELPM Rd, Z+`: "the 24-bit pointer is incremented" before the read (R429). The refusal of an own pointer comes before
the pseudocode (R710). -/
def execElpmZInc (d : Reg) (s : State) : Outcome :=
  unlessOwn (.elpmZInc d) .z d s fun s1 =>
  needs22 (.elpmZInc d) s1 fun s2 => elpmFrom d s2.rampzZ (s2.setRampzZ (s2.rampzZ + 1#24))

/-- `XCH Z, Rd` (R430). -/
def execXch (d : Reg) (s : State) : Outcome := exchangeZ (fun _ x => x) d s

/-- `LAS Z, Rd` (R431). -/
def execLas (d : Reg) (s : State) : Outcome := exchangeZ (fun m x => m ||| x) d s

/-- `LAC Z, Rd`: "the register's bits are cleared in memory" (R432). -/
def execLac (d : Reg) (s : State) : Outcome := exchangeZ (fun m x => m &&& ~~~x) d s

/-- `LAT Z, Rd` (R433). -/
def execLat (d : Reg) (s : State) : Outcome := exchangeZ (fun m x => m ^^^ x) d s

/-- `PUSH Rr` (R434). -/
def execPush (r : Reg) (s : State) : Outcome := pushByte (s.reg r) s fun s1 => finish 2 s1

/-- `POP Rd` (R435). -/
def execPop (d : Reg) (s : State) : Outcome := popByte s fun v s1 => finish 2 (s1.setReg d v)

/-- `IN Rd, A`: 1 cycle (R436). -/
def execIn (d : Reg) (a : BitVec 6) (s : State) : Outcome := memRead (ioAddr6 a) s fun v s1 => finish 1 (s1.setReg d v)

/-- `OUT A, Rr`: 1 cycle (R437). -/
def execOut (a : BitVec 6) (r : Reg) (s : State) : Outcome := memWrite (ioAddr6 a) (s.reg r) s fun s1 => finish 1 s1

end Sys2Proof.Machine
end

