-- ==== Sys2Proof/Machine/WordMul.lean ====
section
/-! DEFINITION. The word add and subtract and the six multiplies (41_arith_logic.md R227..R235). Every cost is 2 (R720). -/

namespace Sys2Proof.Machine

/-- End a word instruction: the pair and SREG, 2 cycles (R227, R228). -/
def writePairFlags (d : Reg) (res : Word) (f : Sreg) (s : State) : Outcome := finish 2 ((s.setPair d res).setSreg f)

/-- `ADIW Rd+1:Rd, K` (R227). -/
def execAdiw (d : Reg) (k : BitVec 6) (s : State) : Outcome :=
  let res := s.pair d + k.zeroExtend 16
  writePairFlags d res (adiwFlags (bitOf (s.reg (d + 1)) 7) res s.sreg) s

/-- `SBIW Rd+1:Rd, K` (R228). -/
def execSbiw (d : Reg) (k : BitVec 6) (s : State) : Outcome :=
  let res := s.pair d - k.zeroExtend 16
  writePairFlags d res (sbiwFlags (bitOf (s.reg (d + 1)) 7) res s.sreg) s

/-- The unsigned product, `trunc_16(zext_8 a * zext_8 b)` (R229). -/
def mulUU (a b : Byte) : Word := a.zeroExtend 16 * b.zeroExtend 16

/-- The signed product, `trunc_16(sext_8 a * sext_8 b)` (R230). -/
def mulSS (a b : Byte) : Word := a.signExtend 16 * b.signExtend 16

/-- The signed by unsigned product, "rd signed, rr unsigned" (R231). -/
def mulSU (a b : Byte) : Word := a.signExtend 16 * b.zeroExtend 16

/-- End a multiply: the 16-bit value into R1:R0, C from the unshifted product, Z from the value (R235). -/
def writeProduct (product written : Word) (s : State) : Outcome :=
  finish 2 ((s.setPair 0 written).setSreg (mulFlags product written s.sreg))

/-- `MUL Rd, Rr` (R229). -/
def execMul (d r : Reg) (s : State) : Outcome :=
  let p := mulUU (s.reg d) (s.reg r)
  writeProduct p p s

/-- `MULS Rd, Rr` (R230). -/
def execMuls (d r : Reg) (s : State) : Outcome :=
  let p := mulSS (s.reg d) (s.reg r)
  writeProduct p p s

/-- `MULSU Rd, Rr` (R231). -/
def execMulsu (d r : Reg) (s : State) : Outcome :=
  let p := mulSU (s.reg d) (s.reg r)
  writeProduct p p s

/-- `FMUL Rd, Rr`: the product shifted left by 1, "C=bit15 of the unshifted product", "Z from shifted value" (R232). -/
def execFmul (d r : Reg) (s : State) : Outcome :=
  let p := mulUU (s.reg d) (s.reg r)
  writeProduct p (p <<< 1) s

/-- `FMULS Rd, Rr` (R233). -/
def execFmuls (d r : Reg) (s : State) : Outcome :=
  let p := mulSS (s.reg d) (s.reg r)
  writeProduct p (p <<< 1) s

/-- `FMULSU Rd, Rr` (R234). -/
def execFmulsu (d r : Reg) (s : State) : Outcome :=
  let p := mulSU (s.reg d) (s.reg r)
  writeProduct p (p <<< 1) s

end Sys2Proof.Machine
end

