-- ==== Sys2Proof/Machine/Step.lean ====
section
/-! DEFINITION. One Step of the core (70_reset_and_hazards.md R710), and a state whose next Step runs a given
instruction. -/

namespace Sys2Proof.Machine

/-- `Step()` (R710, R711): nothing while asleep; else fetch, decode, and perform the instruction, or apply the policy to a
word that is no instruction. -/
def step (s : State) : Host.Outcome State Fault Refusal :=
  match s.asleep with
  | true => stepAsleep s
  | false =>
    fetchInstr (beginStep s) fun op op2 s1 =>
      match decode op op2 with
      | some i => exec i s1
      | none => unknownWord op s1

/-- `s` with an instruction stored where the next Step fetches it: `w` numbered as the opcode table numbers its bits, the
second word zero where the row has none (log 12). -/
def State.withFetchWord (s : State) (nbits w : Nat) : State := s.placeInstr (tableWord1 nbits w) (tableWord2 nbits w)

end Sys2Proof.Machine
end

