-- ==== Sys2Proof/Machine/HostOps.lean ====
section
/-! DEFINITION. What the host does between steps (10_state.md R60, R61; 70_reset_and_hazards.md R700, R701, R712, R713), and
the changes the backend may make to what it holds (20_memory.md R94). Functions of State, beside the step (log 16). -/

namespace Sys2Proof.Machine

/-- `Reset()` (R700): registers, extended pointers, policy and the backend unchanged, no access made. -/
def State.hostReset (s : State) : State :=
  { s with pc := 0#22, sp := 0#16, sreg := Sreg.ofByte 0#8, cycles := 0#64, asleep := false }

/-- A host operation on the core (R60), or a change of what the backend holds (R94, R96). `elapsedCycles` and `isAsleep` are
read-only (R53, R54), so nothing here writes them but Reset. -/
inductive HostOp where
  /-- write one of R0..R31 -/
  | writeReg (i : Reg) (v : Byte)
  /-- write X, Y or Z as a 16-bit value: both registers of the pair (R61) -/
  | writePtr (p : Ptr) (v : Word)
  /-- write `pc`, masked (R33, R61); the argument is as wide as the port's program addresses -/
  | writePc (v : BitVec 32)
  | writeSp (v : Word)
  /-- write SREG: all eight flags (R41, R61) -/
  | writeSreg (b : Byte)
  /-- write one flag: S is not recomputed (R61) -/
  | writeFlag (f : BitNo) (b : Bool)
  | writeEind (v : Byte)
  | writeRampx (v : Byte)
  | writeRampy (v : Byte)
  | writeRampz (v : Byte)
  | writePolicy (p : Policy)
  /-- `Reset` (R700) -/
  | reset
  /-- the backend or the host makes a program word exist, or takes one away (R94) -/
  | setProgram (wa : BitVec 32) (w : Option Word)
  /-- the backend or the host changes a data byte it holds -/
  | setData (a : Word) (v : Byte)
  /-- the backend changes which data addresses are accessible (R8) -/
  | setRegions (rs : List Region)
  /-- the backend changes which program words are accessible (R8) -/
  | setProgRegions (rs : List Region)
deriving DecidableEq, Repr

/-- The effect of a host operation, between two steps and in any state, asleep too (R61, R635, R701, R713). -/
def HostOp.apply (o : HostOp) (s : State) : State :=
  match o with
  | .writeReg i v => s.setReg i v
  | .writePtr p v => s.setPtr p v
  | .writePc v => s.setPc (v.extractLsb' 0 22)
  | .writeSp v => s.setSp v
  | .writeSreg b => s.setSreg (Sreg.ofByte b)
  | .writeFlag f b => s.setSreg (s.sreg.setBit f b)
  | .writeEind v => { s with eind := v }
  | .writeRampx v => { s with rampx := v }
  | .writeRampy v => { s with rampy := v }
  | .writeRampz v => { s with rampz := v }
  | .writePolicy p => { s with policy := p }
  | .reset => s.hostReset
  | .setProgram wa (some w) => { s with prog := Program.setWord s.prog wa.toNat w }
  | .setProgram wa none => { s with prog := Program.removeWord s.prog wa.toNat }
  | .setData a v => s.keepByte a v
  | .setRegions rs => { s with regions := rs }
  | .setProgRegions rs => { s with progRegions := rs }

/-- `elapsedCycles` (R53, R60). -/
def State.elapsedCycles (s : State) : BitVec 64 := s.cycles

/-- `isAsleep` (R54, R60). -/
def State.isAsleep (s : State) : Bool := s.asleep

/-- SREG as a byte (R60). -/
def State.sregByte (s : State) : Byte := s.sreg.toByte

/-- How a Run ends (R712), with the state it leaves. -/
inductive RunResult where
  /-- `Ok(acc)` -/
  | ok (acc : Nat) (s : State)
  /-- a Step failed: "Run stops and propagates the failure" -/
  | err (f : Fault) (s : State)
  /-- a Step decoded a refused word (R731) -/
  | refused (r : Refusal)
  /-- the fuel ran out; it does not with the fuel of `runFor` -/
  | outOfFuel (s : State)
deriving DecidableEq, Repr

/-- The loop of R712: "loops Step while accumulated cycles < n and not asleep". -/
def runLoop : Nat → Nat → Nat → State → RunResult
  | 0, n, acc, s => if acc < n ∧ s.asleep = false then .outOfFuel s else .ok acc s
  | fuel + 1, n, acc, s =>
    if acc < n ∧ s.asleep = false then
      match step s with
      | .next t =>
        match t.result with
        | .ok r => runLoop fuel n (acc + r) t
        | .err f => .err f t
        | .notStepped => .outOfFuel t
      | .refused r => .refused r
      | .fault f => .err f s
    else .ok acc s

/-- `Run(n)`, n an unsigned 64-bit budget (R712). An awake successful Step consumes at least one cycle, so n Steps are
enough (log 19). -/
def runFor (n : BitVec 64) (s : State) : RunResult := runLoop n.toNat n.toNat 0 s

end Sys2Proof.Machine
end

