-- ==== Sys2Proof/Safety.lean ====
section
/-! DEFINITION. What claims about the machine are said in: the well-formed states, the runs in which every Step succeeded,
and what each instruction may write. -/

namespace Sys2Proof.Machine

/-- The pc fits its configured width (R33). -/
def State.pcInRange (s : State) : Bool := maskPc s.params.pcWidth s.pc == s.pc

/-- A well-formed state: the pc in range (R33), both memories in canonical form (log 8, log 9). -/
def State.wf (s : State) : Bool := s.pcInRange && Memory.wf s.data && Program.wf s.prog

/-! ## What calls on the port may change (R8, R70, R89; log 10) -/

/-- The kind of the region that a call on the port is to. -/
def BusAccess.kind (x : BusAccess) (s : State) : RegionKind :=
  match x with
  | .progRead wa => regionKind s.progRegions wa
  | .dataRead a | .dataWrite a _ => regionKind s.regions a

/-- None of these calls is to an oracle's address: by the map of `s` none has an effect outside the byte it writes. -/
def Undisturbed (s : State) (xs : List BusAccess) : Prop := ∀ x ∈ xs, x.kind s ≠ .oracle

/-- `s` with the backend of `t`, and the model's own counter of draws with it. -/
def State.withBackend (s t : State) : State :=
  { s with prog := t.prog, data := t.data, regions := t.regions, progRegions := t.progRegions, draws := t.draws }

/-- From `s` to `t`, after the calls `xs`, the backend has changed only at the bytes they write, unless one of them is to an
oracle's address. -/
def BackendKept (xs : List BusAccess) (s t : State) : Prop :=
  Undisturbed s xs → t.prog = s.prog ∧ t.regions = s.regions ∧ t.progRegions = s.progRegions ∧
    ∀ b, (∀ v, BusAccess.dataWrite b v ∉ xs) → Memory.read t.data b = Memory.read s.data b

/-- From `s` to `t` the core has made the calls `xs` on its port, and nothing has changed but the backend, as they may change
it, and the model's record of the calls. -/
def Called (xs : List BusAccess) (s t : State) : Prop :=
  t = { s.withBackend t with accesses := s.accesses ++ xs } ∧ BackendKept xs s t

/-- From `u` to `t`: the calls `xs`, and the end of a successful step of `n` cycles (R53, R710). -/
def Ran (n : Nat) (xs : List BusAccess) (u t : State) : Prop :=
  t = { u.withBackend t with
    accesses := u.accesses ++ xs
    cycles := u.cycles + BitVec.ofNat 64 n
    result := .ok n } ∧
  BackendKept xs u t

/-- From `u` to `t`: the calls `xs`, and the end of a step by the failure `f`: everything so far is kept, and the cycle
counter has not gone back (R620, R721). -/
def FailedAfter (f : Fault) (xs : List BusAccess) (u t : State) : Prop :=
  t = { u.withBackend t with
    accesses := u.accesses ++ xs
    cycles := t.cycles
    result := .err f } ∧
  u.cycles ≤ t.cycles ∧ BackendKept xs u t

/-! ## Runs -/

/-- The last Step returned `Ok(n)`. -/
def State.succeeded (s : State) : Bool :=
  match s.result with
  | .ok _ => true
  | .err _ | .notStepped => false

/-- The last Step returned a failure (R607). -/
def State.failedStep (s : State) : Bool :=
  match s.result with
  | .err _ => true
  | .ok _ | .notStepped => false

/-- `k` Steps in a row, each of which succeeded, lead from `s` to `t`: no failure and no refused word on the way. "A claim
about a program holds only for runs that reach no refused word" (R731). -/
def SafeRun : Nat → State → State → Prop
  | 0, s, t => s = t
  | k + 1, s, t => ∃ u, step s = .next u ∧ u.succeeded = true ∧ SafeRun k u t

/-- The writers of each flag, as R43 lists them. -/
def writesFlag (i : Instr) (k : BitNo) : Bool :=
  match i with
  | .add _ _ | .adc _ _ | .sub _ _ | .subi _ _ | .sbc _ _ | .sbci _ _ | .cp _ _ | .cpc _ _ | .cpi _ _ | .neg _ =>
    decide (k.val ≤ 5)
  | .inc _ | .dec _ | .and _ _ | .andi _ _ | .or _ _ | .ori _ _ | .eor _ _ => decide (1 ≤ k.val) && decide (k.val ≤ 4)
  | .com _ | .lsr _ | .asr _ | .ror _ | .adiw _ _ | .sbiw _ _ => decide (k.val ≤ 4)
  | .mul _ _ | .muls _ _ | .mulsu _ _ | .fmul _ _ | .fmuls _ _ | .fmulsu _ _ => decide (k.val ≤ 1)
  | .bset b | .bclr b => k == b
  | .bst _ _ => k == 6
  | .reti => k == 7
  | _ => false

/-- The registers an instruction may write: those it names as destination, and those R31 says it writes without naming. -/
def writesReg (i : Instr) (j : Reg) : Bool :=
  match i with
  | .add d _ | .adc d _ | .sub d _ | .subi d _ | .sbc d _ | .sbci d _ | .neg d | .inc d | .dec d | .and d _ | .andi d _
  | .or d _ | .ori d _ | .eor d _ | .com d | .lsr d | .asr d | .ror d | .swap d | .mov d _ | .ldi d _ | .ldX d
  | .lddY d _ | .lddZ d _ | .lds d _ | .lpmZ d | .elpmZ d | .xch d | .las d | .lac d | .lat d | .pop d | .inIo d _
  | .bld d _ => j == d
  | .adiw d _ | .sbiw d _ | .movw d _ => j == d || j == d + 1
  | .mul _ _ | .muls _ _ | .mulsu _ _ | .fmul _ _ | .fmuls _ _ | .fmulsu _ _ => j == 0 || j == 1
  | .lpm | .elpm => j == 0
  | .ldXInc d | .ldXDec d => j == d || Ptr.x.isByte j
  | .ldYInc d | .ldYDec d => j == d || Ptr.y.isByte j
  | .ldZInc d | .ldZDec d | .lpmZInc d | .elpmZInc d => j == d || Ptr.z.isByte j
  | .stXInc _ | .stXDec _ => Ptr.x.isByte j
  | .stYInc _ | .stYDec _ => Ptr.y.isByte j
  | .stZInc _ | .stZDec _ => Ptr.z.isByte j
  | _ => false

/-- The instructions that read and write SP (R37). -/
def usesStack (i : Instr) : Bool :=
  match i with
  | .push _ | .pop _ | .rcall _ | .call _ | .icall | .eicall | .ret | .reti => true
  | _ => false

end Sys2Proof.Machine
end

