-- ==== Sys2Proof/Certificates/Slice0/Obligations.lean ====
section
/-! DEFINITION. The statements for the provers, and the words they are said in. A successful step is described by a frame, an
equation that names every field that may differ from the state before, and by what those fields then hold. -/

namespace Sys2Proof.Machine

/-! ## Words of the statements -/

/-- The row of an instruction (R125): every word with the row's fixed bits decodes to it, with the operands its fields give. -/
def Encodes (pattern mask : Word) (f : Word → Word → Instr) : Prop :=
  ∀ op op2 : Word, op &&& mask = pattern → decode op op2 = some (f op op2)

/-- A successful step of `n` cycles in which nothing but general registers and flags may change. -/
def OnlyRegsFlags (n : Nat) (s t : State) : Prop :=
  t = { s with regs := t.regs, sreg := t.sreg, cycles := s.cycles + BitVec.ofNat 64 n, result := .ok n }

/-- A successful step of `n` cycles in which nothing but general registers may change. -/
def OnlyRegs (n : Nat) (s t : State) : Prop :=
  t = { s with regs := t.regs, cycles := s.cycles + BitVec.ofNat 64 n, result := .ok n }

/-- A successful step of `n` cycles in which nothing but flags may change. -/
def OnlyFlags (n : Nat) (s t : State) : Prop :=
  t = { s with sreg := t.sreg, cycles := s.cycles + BitVec.ofNat 64 n, result := .ok n }

/-- A successful step of `n` cycles after which the pc is `v` masked (R33) and nothing else has changed. -/
def OnlyPc (n : Nat) (v : PcWord) (s t : State) : Prop :=
  t = { s with pc := maskPc s.params.pcWidth v, cycles := s.cycles + BitVec.ofNat 64 n, result := .ok n }

/-- Every register but `d` is as before. -/
def OthersKept (d : Reg) (s t : State) : Prop := ∀ j, j ≠ d → t.reg j = s.reg j

/-- Every register but the pair `d + 1 : d` is as before. -/
def OutsidePairKept (d : Reg) (s t : State) : Prop := ∀ j, j ≠ d → j ≠ d + 1 → t.reg j = s.reg j

/-- `t` is `u` ended by the failure `f` before any access: nothing else of `u` is changed but the cycle counter, which has
not gone back (R620, R721), and the model's counter of draws. -/
def FailedFrom (f : Fault) (u t : State) : Prop :=
  t = { u with cycles := t.cycles, draws := t.draws, result := .err f } ∧ u.cycles ≤ t.cycles

/-- N, V and S of an 8-bit result (R200). -/
def FlagsNVS (res : Byte) (v : Bool) (f : Sreg) : Prop :=
  f.n = res.getLsbD 7 ∧ f.v = v ∧ f.s = xor (res.getLsbD 7) v

/-- Z of an 8-bit result (R200). -/
def FlagZ (res : Byte) (f : Sreg) : Prop := f.z = decide (res = 0#8)

/-- The user flags, which no arithmetic writes. -/
def KeptTI (f0 f : Sreg) : Prop := f.t = f0.t ∧ f.i = f0.i

/-- H, C, N, V and S of an addition, bit by bit (R201). -/
def FlagsAdd (rd rr res : Byte) (f : Sreg) : Prop :=
  f.h = (rd.getLsbD 3 && rr.getLsbD 3 || rr.getLsbD 3 && !res.getLsbD 3 || !res.getLsbD 3 && rd.getLsbD 3) ∧
  f.c = (rd.getLsbD 7 && rr.getLsbD 7 || rr.getLsbD 7 && !res.getLsbD 7 || !res.getLsbD 7 && rd.getLsbD 7) ∧
  FlagsNVS res
    (rd.getLsbD 7 && rr.getLsbD 7 && !res.getLsbD 7 || !rd.getLsbD 7 && !rr.getLsbD 7 && res.getLsbD 7) f

/-- H, C, N, V and S of a subtraction, bit by bit (R202). -/
def FlagsSub (rd rr res : Byte) (f : Sreg) : Prop :=
  f.h = (!rd.getLsbD 3 && rr.getLsbD 3 || rr.getLsbD 3 && res.getLsbD 3 || res.getLsbD 3 && !rd.getLsbD 3) ∧
  f.c = (!rd.getLsbD 7 && rr.getLsbD 7 || rr.getLsbD 7 && res.getLsbD 7 || res.getLsbD 7 && !rd.getLsbD 7) ∧
  FlagsNVS res
    (rd.getLsbD 7 && !rr.getLsbD 7 && !res.getLsbD 7 || !rd.getLsbD 7 && rr.getLsbD 7 && res.getLsbD 7) f

/-- Z of SBC, SBCI and CPC (R204): `zold` counts only where SBC_Z_STICKY. -/
def FlagZSbc (s : State) (res : Byte) (f : Sreg) : Prop :=
  f.z = (decide (res = 0#8) && (!s.params.sbcZSticky || s.sreg.z))

/-- The carry flag as the number 0 or 1 (R206, R209). -/
def carry (s : State) : Byte := if s.sreg.c then 1#8 else 0#8

/-- The backend answers the byte `v` to a read of `a` (R70). -/
def Answers (s : State) (a : Word) (v : Byte) : Prop := (readDataMemory a s).1 = some v

/-- The backend answers None to a read of `a` (R70). -/
def Silent (s : State) (a : Word) : Prop := (readDataMemory a s).1 = none

/-- The backend answers true to a write of `v` at `a` (R70). -/
def Takes (s : State) (a : Word) (v : Byte) : Prop := (writeDataMemory a v s).1 = true

/-- The backend answers false to a write of `v` at `a` (R70). -/
def Rejects (s : State) (a : Word) (v : Byte) : Prop := (writeDataMemory a v s).1 = false

/-- The backend answers the word `w` to a read of the program word at `wa` (R70). -/
def AnswersWord (s : State) (wa : BitVec 32) (w : Word) : Prop := (readProgramMemory wa s).1 = some w

/-- The backend answers None to a read of the program word at `wa` (R70). -/
def SilentWord (s : State) (wa : BitVec 32) : Prop := (readProgramMemory wa s).1 = none

/-- The address that a fetch reads. -/
def fetchAt (s : State) : BitVec 32 := s.pc.zeroExtend 32

/-- The backend is plain memory for writes at `a`: what is written there is held there (R92; which addresses are such is
data of the model, log 10). -/
def HoldsWrites (s : State) (a : Word) : Prop :=
  regionKind s.regions a.toNat = .ram ∨ regionKind s.regions a.toNat = .writeOnly

/-- The backend answers these reads, one after the other. -/
def AnswersAll : List (Word × Byte) → State → Prop
  | [], _ => True
  | (a, v) :: rest, s => Answers s a v ∧ AnswersAll rest (readDataMemory a s).2

/-- The backend takes these writes, one after the other. -/
def TakesAll : List (Word × Byte) → State → Prop
  | [], _ => True
  | (a, v) :: rest, s => Takes s a v ∧ TakesAll rest (writeDataMemory a v s).2

/-- The writes of a call whose return address is `a`, in push order (R80, R85). -/
def returnPushes (w : PcWidth) (sp : Word) (a : PcWord) : List (Word × Byte) :=
  match w with
  | .pc16 => [(sp, a.extractLsb' 0 8), (sp - 1#16, a.extractLsb' 8 8)]
  | .pc22 => [(sp, a.extractLsb' 0 8), (sp - 1#16, a.extractLsb' 8 8), (sp - 2#16, (a.extractLsb' 16 6).zeroExtend 8)]

/-- The calls on the port that offer these writes. -/
def offers (l : List (Word × Byte)) : List BusAccess := l.map fun x => .dataWrite x.1.toNat x.2

/-- How far a call or a return moves SP: the bytes of a return address (R80). -/
def returnBytes (w : PcWidth) : Word :=
  match w with
  | .pc16 => 2#16
  | .pc22 => 3#16

/-- A successful load of `n` cycles: one read of `a`, and nothing changed but general registers and, where the read is of an
oracle's address, the backend (log 10). -/
def LoadFrame (n : Nat) (a : Word) (s t : State) : Prop := Ran n [.dataRead a.toNat] { s with regs := t.regs } t

/-- A load that the backend does not answer: the failure, the changes those of a load. -/
def LoadFailed (a : Word) (s t : State) : Prop :=
  FailedAfter (.addressUnreadable .data a.toNat) [.dataRead a.toNat] { s with regs := t.regs } t

/-- A successful store of `n` cycles: one write of `v` at `a`, and nothing changed but general registers and that byte, or,
where the write is to an oracle's address, the backend (log 10); a backend that is plain memory there holds `v`. -/
def StoreFrame (n : Nat) (a : Word) (v : Byte) (s t : State) : Prop :=
  Ran n [.dataWrite a.toNat v] { s with regs := t.regs } t ∧ (HoldsWrites s a → Memory.read t.data a.toNat = v)

/-- A store the backend rejects: the failure, the changes those of a store; of the byte at `a` nothing is known afterwards
(R77; log 10, log 11). -/
def StoreFailed (a : Word) (v : Byte) (s t : State) : Prop :=
  FailedAfter (.addressUnwritable a.toNat v) [.dataWrite a.toNat v] { s with regs := t.regs } t

/-- `i` loads the byte at `a` into Rd in `n` cycles, or fails leaving every register as it was. -/
def LoadsPlain (n : Nat) (i : Instr) (d : Reg) (a : Word) (s : State) : Prop :=
  (∀ v, Answers s a v → ∃ t, exec i s = .next t ∧ LoadFrame n a s t ∧ t.reg d = v ∧ OthersKept d s t) ∧
  (Silent s a → ∃ t, exec i s = .next t ∧ LoadFailed a s t ∧ t.regs = s.regs)

/-- `i` stores Rr at `a` in `n` cycles, or fails; either way every register is as it was. -/
def StoresPlain (n : Nat) (i : Instr) (r : Reg) (a : Word) (s : State) : Prop :=
  (Takes s a (s.reg r) → ∃ t, exec i s = .next t ∧ StoreFrame n a (s.reg r) s t ∧ t.regs = s.regs) ∧
  (Rejects s a (s.reg r) → ∃ t, exec i s = .next t ∧ StoreFailed a (s.reg r) s t ∧ t.regs = s.regs)

/-- The registers other than `d` and the two bytes of the pointer are as before. -/
def OutsidePtrKept (p : Ptr) (s t : State) : Prop := ∀ j, p.isByte j = false → t.reg j = s.reg j

/-- `i` loads the byte at `a` into Rd and leaves `w` in the pointer; where the load fails the pointer is written all the
same and Rd is not (R403). Where Rd is a byte of the pointer, `i` is refused (R131). -/
def LoadsAuto (i : Instr) (p : Ptr) (d : Reg) (a w : Word) (s : State) : Prop :=
  (p.isByte d = true → exec i s = .refused (.ownPointer s.pc0 (opWord i))) ∧
  (p.isByte d = false → ∀ v, Answers s a v → ∃ t, exec i s = .next t ∧ LoadFrame 2 a s t ∧ t.reg d = v ∧ t.ptr p = w ∧
    ∀ j, j ≠ d → p.isByte j = false → t.reg j = s.reg j) ∧
  (p.isByte d = false → Silent s a → ∃ t, exec i s = .next t ∧ LoadFailed a s t ∧ t.ptr p = w ∧ OutsidePtrKept p s t)

/-- `i` stores Rr at `a` and leaves `w` in the pointer, whether or not the store succeeds (R403). Where Rr is a byte of the
pointer, `i` is refused (R131). -/
def StoresAuto (i : Instr) (p : Ptr) (r : Reg) (a w : Word) (s : State) : Prop :=
  (p.isByte r = true → exec i s = .refused (.ownPointer s.pc0 (opWord i))) ∧
  (p.isByte r = false → Takes s a (s.reg r) →
    ∃ t, exec i s = .next t ∧ StoreFrame 2 a (s.reg r) s t ∧ t.ptr p = w ∧ OutsidePtrKept p s t) ∧
  (p.isByte r = false → Rejects s a (s.reg r) →
    ∃ t, exec i s = .next t ∧ StoreFailed a (s.reg r) s t ∧ t.ptr p = w ∧ OutsidePtrKept p s t)

/-- The byte of the program word that a byte address names: an odd address names the high byte (R83). -/
def programByte (a : Nat) (w : Word) : Byte := if a % 2 = 1 then w.extractLsb' 8 8 else w.extractLsb' 0 8

/-- A successful program-memory load: one read of the word of byte address `a`, and nothing changed but general registers,
RAMPZ and, where the read is of an oracle's address, the backend (log 10). -/
def ProgLoadFrame (a : Nat) (s t : State) : Prop := Ran 3 [.progRead (a / 2)] { s with regs := t.regs, rampz := t.rampz } t

/-- A program-memory load of a word that does not exist: the failure, the changes those of a load. -/
def ProgLoadFailed (a : Nat) (s t : State) : Prop :=
  FailedAfter (.addressUnreadable .program (a / 2)) [.progRead (a / 2)] { s with regs := t.regs, rampz := t.rampz } t

/-- `o` is how a skip instruction ends from `s`: 1 cycle where the condition does not hold; else the next word is read and
passed, and the one after it too where that word is long; where no such word exists the step fails (R314). The read of an
oracle's address may change the backend (log 10). -/
def Skips (o : Outcome) (cond : Bool) (s : State) : Prop :=
  (cond = false → ∃ t, o = .next t ∧ t = { s with cycles := s.cycles + 1#64, result := .ok 1 }) ∧
  (cond = true → ∀ w, AnswersWord s (fetchAt s) w → ∃ t, o = .next t ∧
    Ran (if isLong w then 3 else 2) [.progRead s.pc.toNat]
      { s with pc := maskPc s.params.pcWidth (s.pc + if isLong w then 2#22 else 1#22) } t) ∧
  (cond = true → SilentWord s (fetchAt s) → ∃ t, o = .next t ∧
    FailedAfter (.addressUnreadable .program s.pc.toNat) [.progRead s.pc.toNat] s t)

/-- The fetch of a word: the program word at the pc read, the pc one on, masked (R78, R33). -/
def fetched (s : State) : State := (readProgramMemory (fetchAt s) s).2.setPc (s.pc + 1#22)

/-- A step about to fetch: the model's record of the port empty. -/
def begun (s : State) : State := { s with accesses := [] }

/-- The program word `w` exists at the address, in plain program memory (log 8, log 10). -/
def PlainWord (s : State) (wa : Nat) (w : Word) : Prop :=
  (regionKind s.progRegions wa = .ram ∨ regionKind s.progRegions wa = .readOnly) ∧ Program.word s.prog wa = some w

/-- `k` Steps of an awake core, each of them successful, lead from `s` to `t` in `acc` cycles. -/
def Stepped : Nat → Nat → State → State → Prop
  | 0, acc, s, t => acc = 0 ∧ s = t
  | k + 1, acc, s, t => ∃ u r rest, s.asleep = false ∧ step s = .next u ∧ u.result = .ok r ∧ acc = r + rest ∧
    Stepped k rest u t

/-- The state in which an instruction of one word in plain program memory runs: its word read, the pc past it (R34, R710). -/
def fetchedOne (s : State) : State :=
  { s with pc := maskPc s.params.pcWidth (s.pc + 1#22), accesses := [.progRead s.pc.toNat] }

/-- The state in which an instruction of two words in plain program memory runs. -/
def fetchedTwo (s : State) : State :=
  { s with
    pc := maskPc s.params.pcWidth (s.pc + 2#22)
    accesses := [.progRead s.pc.toNat, .progRead (maskPc s.params.pcWidth (s.pc + 1#22)).toNat] }

/-- The instructions that update N or V (R42, R43). -/
def updatesNV (i : Instr) : Bool :=
  match i with
  | .add _ _ | .adc _ _ | .sub _ _ | .subi _ _ | .sbc _ _ | .sbci _ _ | .cp _ _ | .cpc _ _ | .cpi _ _ | .neg _ | .inc _
  | .dec _ | .and _ _ | .andi _ _ | .or _ _ | .ori _ _ | .eor _ _ | .com _ | .lsr _ | .asr _ | .ror _ | .adiw _ _
  | .sbiw _ _ => true
  | _ => false

/-- The 28 words of R131, by number. -/
def ownPointerWords : List Word :=
  [ 0x91AD#16, 0x91BD#16, 0x91AE#16, 0x91BE#16, 0x93AD#16, 0x93BD#16, 0x93AE#16, 0x93BE#16,
    0x91C9#16, 0x91D9#16, 0x91CA#16, 0x91DA#16, 0x93C9#16, 0x93D9#16, 0x93CA#16, 0x93DA#16,
    0x91E1#16, 0x91F1#16, 0x91E2#16, 0x91F2#16, 0x93E1#16, 0x93F1#16, 0x93E2#16, 0x93F2#16,
    0x91E5#16, 0x91F5#16, 0x91E7#16, 0x91F7#16 ]

end Sys2Proof.Machine

open Sys2Proof Sys2Proof.Machine

/-! ## Encoding and the step -/

/-- R125, R126: the words of every well-formed instruction decode to it, every operand at every value its field admits. -/
def Obligations.WordsOfAnInstructionDecodeToIt : Prop :=
  ∀ (i : Instr) (op2 : Word), i.wellFormed = true → decode (opWord i) ((encode i).getD 1 op2) = some i

/-- R123, R126, R100: what a word decodes to is well formed and its words are the words it was decoded from. -/
def Obligations.DecodedInstructionEncodesToItsWords : Prop :=
  ∀ (op op2 : Word) (i : Instr), decode op op2 = some i →
    i.wellFormed = true ∧ encode i = if isLong op then [op, op2] else [op]

/-- Words written out bit by bit from the patterns of R125, one of every format of R122. -/
def Obligations.SampleWordsDecodeAsTheTableSays : Prop :=
  decode 0b0000110000010001#16 0#16 = some (.add 1 1) ∧
  decode 0b1001010110001000#16 0#16 = some .sleep ∧
  decode 0b1001010100000001#16 0#16 = some (.neg 16) ∧
  decode 0b1110101000001011#16 0#16 = some (.ldi 16 0xAB#8) ∧
  decode 0b0000001000000001#16 0#16 = some (.muls 16 17) ∧
  decode 0b0000001110001001#16 0#16 = some (.fmulsu 16 17) ∧
  decode 0b0000000100001111#16 0#16 = some (.movw 0 30) ∧
  decode 0b1001011000000001#16 0#16 = some (.adiw 24 1#6) ∧
  decode 0b1010110100001111#16 0#16 = some (.lddY 16 63#6) ∧
  decode 0b1011011100001111#16 0#16 = some (.inIo 16 0x3F#6) ∧
  decode 0b1001100000101010#16 0#16 = some (.cbi 5#5 2) ∧
  decode 0b1100100000000000#16 0#16 = some (.rjmp 0x800#12) ∧
  decode 0b1111010000011001#16 0#16 = some (.brbc 1 3#7) ∧
  decode 0b1111101100000111#16 0#16 = some (.bst 16 7) ∧
  decode 0b1001010001111000#16 0#16 = some (.bset 7) ∧
  decode 0b1001010011111011#16 0#16 = some (.des 15#4) ∧
  decode 0b1001010111111101#16 0xFFFF#16 = some (.jmp 0x3FFFFF#22) ∧
  decode 0b1001001100000000#16 0x1234#16 = some (.sts 0x1234#16 16) ∧
  decode 0b0000000000000001#16 0#16 = none ∧
  decode 0b1111100000001000#16 0#16 = none

/-- R710, R711, R78: a Step of an awake core runs the instruction at the pc on the state in which its words are fetched: for
any backend, with the fetch as the port answers it and what it may change; and written out where the words lie in plain
program memory (log 8, log 10). -/
def Obligations.StepRunsTheDecodedInstruction : Prop :=
  (∀ (s : State) (op : Word) (i : Instr), s.asleep = false → AnswersWord (begun s) (fetchAt s) op →
    (isLong op = false → decode op 0#16 = some i → step s = exec i (fetched (begun s))) ∧
    (isLong op = true → ∀ op2, AnswersWord (fetched (begun s)) (fetchAt (fetched (begun s))) op2 →
      decode op op2 = some i → step s = exec i (fetched (fetched (begun s))))) ∧
  (∀ s : State, Called [.progRead s.pc.toNat] { s with pc := maskPc s.params.pcWidth (s.pc + 1#22) } (fetched s)) ∧
  (∀ (s : State) (op : Word) (i : Instr), s.asleep = false → PlainWord s s.pc.toNat op →
    (isLong op = false → decode op 0#16 = some i → step s = exec i (fetchedOne s)) ∧
    (isLong op = true → ∀ op2, PlainWord s (maskPc s.params.pcWidth (s.pc + 1#22)).toNat op2 →
      decode op op2 = some i → step s = exec i (fetchedTwo s)))

/-- R78, R621: a fetch of a word that does not exist ends the Step, the pc at the word that was not read. That nothing of
the backend changes but at a read of an oracle's address is log 10. -/
def Obligations.FetchOfAMissingWordFails : Prop :=
  ∀ s : State, s.asleep = false →
    (SilentWord (begun s) (fetchAt s) → ∃ t, step s = .next t ∧
      FailedAfter (.addressUnreadable .program s.pc.toNat) [.progRead s.pc.toNat] (begun s) t) ∧
    (∀ op, AnswersWord (begun s) (fetchAt s) op → isLong op = true →
      SilentWord (fetched (begun s)) (fetchAt (fetched (begun s))) → ∃ t, step s = .next t ∧
      FailedAfter (.addressUnreadable .program (maskPc s.params.pcWidth (s.pc + 1#22)).toNat)
        [.progRead s.pc.toNat, .progRead (maskPc s.params.pcWidth (s.pc + 1#22)).toNat]
        { begun s with pc := maskPc s.params.pcWidth (s.pc + 1#22) } t)

/-- R508, R602: a fetched word that is no instruction, by the policy. -/
def Obligations.UnknownWordFollowsThePolicy : Prop :=
  ∀ (s : State) (op : Word), s.asleep = false → s.pcInRange = true → AnswersWord (begun s) (fetchAt s) op →
    (∀ op2, decode op op2 = none) →
    (s.policy = .doNop → step s = .next { fetched (begun s) with cycles := s.cycles + 1#64, result := .ok 1 }) ∧
    (s.policy = .throwException ∨ s.policy = .emulatePhysical →
      ∃ t, step s = .next t ∧ FailedFrom (.unknownOpcode s.pc op) (fetched (begun s)) t)

/-- R54, R635: SLEEP sets the sleep bit, Reset clears it and nothing else changes it; while it is set a Step makes no
access, returns 0 and changes nothing. -/
def Obligations.SleepIsEnteredBySleepAndLeftByReset : Prop :=
  (∀ s : State, ∃ t, exec .sleep s = .next t ∧ t.asleep = true) ∧
  (∀ s t : State, step s = .next t → t.asleep = true → s.asleep = false →
    AnswersWord s (fetchAt s) 0x9588#16) ∧
  (∀ s : State, s.asleep = true → step s = .next { s with accesses := [], result := .ok 0 }) ∧
  (∀ (o : HostOp) (s : State), o ≠ .reset → (o.apply s).asleep = s.asleep) ∧
  (∀ s : State, (HostOp.reset.apply s).asleep = false) ∧
  (∀ s : State, s.isAsleep = s.asleep) ∧
  State.reset.asleep = false

/-! ## Whole-machine rules -/

/-- R33: every Step keeps the pc in its width; and both memories in canonical form, which is the model's own (log 8,
log 9). -/
def Obligations.StepKeepsTheStateWellFormed : Prop :=
  ∀ s t : State, s.wf = true → step s = .next t → t.wf = true

/-- R63, R702: the values the spec gives the state after reset, and that the state is well formed. The registers, PC_BITS
and the empty backend of State.reset are the model's choice (log 1, log 3, log 8, log 9) and are not stated. -/
def Obligations.ResetStateHoldsTheGivenValues : Prop :=
  State.reset.pc = 0#22 ∧ State.reset.sp = 0#16 ∧ State.reset.sreg.toByte = 0#8 ∧ State.reset.cycles = 0#64 ∧
  State.reset.asleep = false ∧ State.reset.policy = .throwException ∧ State.reset.wf = true

/-- R33, R61: every host operation keeps the pc in its width. That it keeps both memories in the model's own canonical form
(log 8, log 9), and the changes of the backend among the operations (log 16), are the model's choice. -/
def Obligations.HostOperationsKeepTheStateWellFormed : Prop :=
  ∀ (o : HostOp) (s : State), s.wf = true → (o.apply s).wf = true

/-- R131, R710, R731: a Step is refused exactly on the 28 words, after their fetch. That the `ELPM Rd, Z+` words among them
are refused with a 16-bit PC too, before R603's check, is the model's inference (log 15); that a failed Step is a next state,
so that no Step answers Outcome.fault, is the model's choice (log 4). -/
def Obligations.OnlyTheTwentyEightWordsAreRefused : Prop :=
  ownPointerWords.length = 28 ∧ ownPointerWords.Nodup ∧
  (∀ (s : State) (f : Fault), step s ≠ .fault f) ∧
  (∀ (s : State) (r : Refusal), s.pcInRange = true →
    (step s = .refused r ↔ s.asleep = false ∧ ∃ op ∈ ownPointerWords,
      AnswersWord s (fetchAt s) op ∧ r = .ownPointer s.pc op))

/-- R6, R50, R52, R55, R94: no Step writes the parameters, EIND, RAMPX, RAMPY or the policy; nor program memory or the maps
of what is accessible, where it accesses no oracle's address (the model's choice, log 10). -/
def Obligations.StepNeverWritesHostOwnedState : Prop :=
  ∀ s t : State, step s = .next t →
    t.params = s.params ∧ t.eind = s.eind ∧ t.rampx = s.rampx ∧ t.rampy = s.rampy ∧ t.policy = s.policy ∧
    (Undisturbed s t.accesses → t.prog = s.prog ∧ t.regions = s.regions ∧ t.progRegions = s.progRegions)

/-- R53, R710, R721: a Step returns a cycle count or a failure; the count is what it added, 1 to 5 cycles awake and 0
asleep, and a failure has not taken the counter back (BREAK, at the top of the 64-bit counter, apart). -/
def Obligations.StepAccountsForItsCycles : Prop :=
  ∀ s t : State, step s = .next t →
    (∃ n, t.result = .ok n ∧ t.cycles = s.cycles + BitVec.ofNat 64 n ∧ n ≤ 5 ∧ (n = 0 ↔ s.asleep = true)) ∨
    (∃ f, t.result = .err f ∧ s.asleep = false ∧
      ((∃ p, f = .breakInterrupt p ∧ t.cycles = s.cycles + 1#64) ∨ s.cycles ≤ t.cycles))

/-- R56, R89: a byte the backend holds changes in a Step only where the Step offered a write, or where it accesses an
oracle's address (the model's choice, log 10, log 11). -/
def Obligations.DataChangesOnlyWhereAWriteWasOffered : Prop :=
  ∀ (s t : State) (a : Nat), step s = .next t → Undisturbed s t.accesses →
    Memory.read t.data a ≠ Memory.read s.data a → ∃ v, BusAccess.dataWrite a v ∈ t.accesses

/-- R43: an instruction that is no writer of a flag leaves it unchanged. -/
def Obligations.FlagsChangeOnlyByTheirWriters : Prop :=
  ∀ (i : Instr) (s t : State) (k : BitNo), exec i s = .next t → writesFlag i k = false → t.sreg.bit k = s.sreg.bit k

/-- R31: an instruction changes no register but its destination and those it writes without naming. -/
def Obligations.RegistersChangeOnlyByTheirWriters : Prop :=
  ∀ (i : Instr) (s t : State) (j : Reg), exec i s = .next t → writesReg i j = false → t.reg j = s.reg j

/-- R37, R51, R54: only the stack instructions write SP, only `ELPM Rd, Z+` writes RAMPZ, only SLEEP the sleep bit. -/
def Obligations.SpRampzAndSleepHaveFewWriters : Prop :=
  ∀ (i : Instr) (s t : State), exec i s = .next t →
    (usesStack i = false → t.sp = s.sp) ∧
    ((∀ d, i ≠ .elpmZInc d) → t.rampz = s.rampz) ∧
    (i ≠ .sleep → t.asleep = s.asleep)

/-- R42: S is N xor V after every instruction that updates N or V, and every other instruction but BSET and BCLR leaves N, V
and S alone. -/
def Obligations.SignFlagFollowsArithmetic : Prop :=
  ∀ (i : Instr) (s t : State), exec i s = .next t →
    (updatesNV i = true → t.sreg.s = xor t.sreg.n t.sreg.v) ∧
    (updatesNV i = false → (∀ b, i ≠ .bset b) → (∀ b, i ≠ .bclr b) →
      t.sreg.n = s.sreg.n ∧ t.sreg.v = s.sreg.v ∧ t.sreg.s = s.sreg.s)

/-- R41: SREG and the flags are one store, in the bit order of R40. -/
def Obligations.SregByteAndFlagsAreOneStore : Prop :=
  (∀ b : Byte, (Sreg.ofByte b).toByte = b) ∧
  (∀ f : Sreg, Sreg.ofByte f.toByte = f) ∧
  (∀ (f : Sreg) (k : BitNo), f.toByte.getLsbD k.val = f.bit k) ∧
  (∀ f : Sreg, f.bit 0 = f.c ∧ f.bit 1 = f.z ∧ f.bit 2 = f.n ∧ f.bit 3 = f.v ∧ f.bit 4 = f.s ∧ f.bit 5 = f.h ∧
    f.bit 6 = f.t ∧ f.bit 7 = f.i)

/-- R700: Reset. -/
def Obligations.ResetRestoresPcSpFlagsCyclesSleep : Prop :=
  ∀ s : State, ∃ f : Sreg, f.toByte = 0#8 ∧
    s.hostReset = { s with pc := 0#22, sp := 0#16, sreg := f, cycles := 0#64, asleep := false }

/-- R60, R61: what the host's writes do: every writable property of R60, and nothing else changed by a write of it. -/
def Obligations.HostWritesActAsInstructionWrites : Prop :=
  ∀ s : State,
    (∀ i v, ∃ t, (HostOp.writeReg i v).apply s = t ∧ t = { s with regs := t.regs } ∧ t.reg i = v ∧ OthersKept i s t) ∧
    (∀ p v, ∃ t, (HostOp.writePtr p v).apply s = t ∧ t = { s with regs := t.regs } ∧
      t.reg p.low = v.extractLsb' 0 8 ∧ t.reg (p.low + 1) = v.extractLsb' 8 8 ∧ OutsidePtrKept p s t) ∧
    (∀ v, ∃ t, (HostOp.writePc v).apply s = t ∧ t = { s with pc := t.pc } ∧
      t.pc.toNat = v.toNat % (match s.params.pcWidth with | .pc16 => 65536 | .pc22 => 4194304)) ∧
    (∀ v, (HostOp.writeSp v).apply s = { s with sp := v }) ∧
    (∀ b, ∃ t, (HostOp.writeSreg b).apply s = t ∧ t = { s with sreg := t.sreg } ∧ t.sreg.toByte = b) ∧
    (∀ k b, ∃ t, (HostOp.writeFlag k b).apply s = t ∧ t = { s with sreg := t.sreg } ∧ t.sreg.bit k = b ∧
      ∀ j, j ≠ k → t.sreg.bit j = s.sreg.bit j) ∧
    (∀ v, (HostOp.writeEind v).apply s = { s with eind := v }) ∧
    (∀ v, (HostOp.writeRampx v).apply s = { s with rampx := v }) ∧
    (∀ v, (HostOp.writeRampy v).apply s = { s with rampy := v }) ∧
    (∀ v, (HostOp.writeRampz v).apply s = { s with rampz := v }) ∧
    (∀ p, (HostOp.writePolicy p).apply s = { s with policy := p })

/-- R712, R607: Run ends with the cycles it accumulated, at the budget or asleep, past the budget by 4 at most; the fuel
of runFor is enough (log 19); with no budget, or asleep, it does nothing. A Step that fails, after Steps that succeeded
within the budget, ends the Run with its failure and the state it left; a refused word ends it with the refusal (R731). -/
def Obligations.RunStopsAtItsBudgetOrAsleep : Prop :=
  (∀ (n : BitVec 64) (s t : State) (acc : Nat), runFor n s = .ok acc t →
    (n.toNat ≤ acc ∨ t.asleep = true) ∧ acc ≤ n.toNat + 4 ∧ t.cycles = s.cycles + BitVec.ofNat 64 acc) ∧
  (∀ (n : BitVec 64) (s t : State), runFor n s ≠ .outOfFuel t) ∧
  (∀ (n : BitVec 64) (s : State), n = 0#64 ∨ s.asleep = true → runFor n s = .ok 0 s) ∧
  (∀ (n : BitVec 64) (k acc : Nat) (s u : State), Stepped k acc s u → acc < n.toNat → u.asleep = false →
    (∀ t f, step u = .next t → t.result = .err f → runFor n s = .err f t) ∧
    (∀ r, step u = .refused r → runFor n s = .refused r))

/-- R92: where the backend is plain memory, a read gives what the last write to the address left, and a write to another
address does not change it. Which addresses are plain memory is data of the model (log 10). -/
def Obligations.PlainMemoryReadsTheLastWrite : Prop :=
  ∀ (s : State) (a b : Word) (v : Byte), regionKind s.regions a.toNat = .ram → regionKind s.regions b.toNat = .ram →
    Takes s a v ∧ Answers (writeDataMemory a v s).2 a v ∧
    (b ≠ a → ∀ w, Answers s b w → Answers (writeDataMemory a v s).2 b w)

/-! ## Arithmetic and logic -/

/-- ADD and ADC: R205, R206, R201, R200. -/
def Obligations.AddAndAdcAddAndSetFlags : Prop :=
  Encodes 0x0C00#16 0xFC00#16 (fun op _ => .add (d5 op) (r5 op)) ∧
  Encodes 0x1C00#16 0xFC00#16 (fun op _ => .adc (d5 op) (r5 op)) ∧
  ∀ (d r : Reg) (s : State),
    (∃ t res, exec (.add d r) s = .next t ∧ OnlyRegsFlags 1 s t ∧ res = s.reg d + s.reg r ∧ t.reg d = res ∧
      OthersKept d s t ∧ FlagsAdd (s.reg d) (s.reg r) res t.sreg ∧ FlagZ res t.sreg ∧ KeptTI s.sreg t.sreg) ∧
    (∃ t res, exec (.adc d r) s = .next t ∧ OnlyRegsFlags 1 s t ∧ res = s.reg d + s.reg r + carry s ∧ t.reg d = res ∧
      OthersKept d s t ∧ FlagsAdd (s.reg d) (s.reg r) res t.sreg ∧ FlagZ res t.sreg ∧ KeptTI s.sreg t.sreg)

/-- SUB and SUBI: R207, R208, R202. -/
def Obligations.SubAndSubiSubtractAndSetFlags : Prop :=
  Encodes 0x1800#16 0xFC00#16 (fun op _ => .sub (d5 op) (r5 op)) ∧
  Encodes 0x5000#16 0xF000#16 (fun op _ => .subi (d4 op) (k8 op)) ∧
  ∀ (d : Reg) (s : State),
    (∀ r, ∃ t res, exec (.sub d r) s = .next t ∧ OnlyRegsFlags 1 s t ∧ res = s.reg d - s.reg r ∧ t.reg d = res ∧
      OthersKept d s t ∧ FlagsSub (s.reg d) (s.reg r) res t.sreg ∧ FlagZ res t.sreg ∧ KeptTI s.sreg t.sreg) ∧
    (∀ k, ∃ t res, exec (.subi d k) s = .next t ∧ OnlyRegsFlags 1 s t ∧ res = s.reg d - k ∧ t.reg d = res ∧
      OthersKept d s t ∧ FlagsSub (s.reg d) k res t.sreg ∧ FlagZ res t.sreg ∧ KeptTI s.sreg t.sreg)

/-- SBC and SBCI: R209, R210, R204. -/
def Obligations.SbcAndSbciSubtractWithBorrow : Prop :=
  Encodes 0x0800#16 0xFC00#16 (fun op _ => .sbc (d5 op) (r5 op)) ∧
  Encodes 0x4000#16 0xF000#16 (fun op _ => .sbci (d4 op) (k8 op)) ∧
  ∀ (d : Reg) (s : State),
    (∀ r, ∃ t res, exec (.sbc d r) s = .next t ∧ OnlyRegsFlags 1 s t ∧ res = s.reg d - s.reg r - carry s ∧
      t.reg d = res ∧ OthersKept d s t ∧ FlagsSub (s.reg d) (s.reg r) res t.sreg ∧ FlagZSbc s res t.sreg ∧
      KeptTI s.sreg t.sreg) ∧
    (∀ k, ∃ t res, exec (.sbci d k) s = .next t ∧ OnlyRegsFlags 1 s t ∧ res = s.reg d - k - carry s ∧
      t.reg d = res ∧ OthersKept d s t ∧ FlagsSub (s.reg d) k res t.sreg ∧ FlagZSbc s res t.sreg ∧
      KeptTI s.sreg t.sreg)

/-- CP, CPC and CPI: R211, R212, R213: flags only. -/
def Obligations.ComparesSetFlagsAndWriteNoRegister : Prop :=
  Encodes 0x1400#16 0xFC00#16 (fun op _ => .cp (d5 op) (r5 op)) ∧
  Encodes 0x0400#16 0xFC00#16 (fun op _ => .cpc (d5 op) (r5 op)) ∧
  Encodes 0x3000#16 0xF000#16 (fun op _ => .cpi (d4 op) (k8 op)) ∧
  ∀ (d : Reg) (s : State),
    (∀ r, ∃ t res, exec (.cp d r) s = .next t ∧ OnlyFlags 1 s t ∧ res = s.reg d - s.reg r ∧
      FlagsSub (s.reg d) (s.reg r) res t.sreg ∧ FlagZ res t.sreg ∧ KeptTI s.sreg t.sreg) ∧
    (∀ r, ∃ t res, exec (.cpc d r) s = .next t ∧ OnlyFlags 1 s t ∧ res = s.reg d - s.reg r - carry s ∧
      FlagsSub (s.reg d) (s.reg r) res t.sreg ∧ FlagZSbc s res t.sreg ∧ KeptTI s.sreg t.sreg) ∧
    (∀ k, ∃ t res, exec (.cpi d k) s = .next t ∧ OnlyFlags 1 s t ∧ res = s.reg d - k ∧
      FlagsSub (s.reg d) k res t.sreg ∧ FlagZ res t.sreg ∧ KeptTI s.sreg t.sreg)

/-- NEG, INC and DEC: R214, R215, R216. -/
def Obligations.NegIncDecResultsAndFlags : Prop :=
  Encodes 0x9401#16 0xFE0F#16 (fun op _ => .neg (d5 op)) ∧
  Encodes 0x9403#16 0xFE0F#16 (fun op _ => .inc (d5 op)) ∧
  Encodes 0x940A#16 0xFE0F#16 (fun op _ => .dec (d5 op)) ∧
  ∀ (d : Reg) (s : State),
    (∃ t res, exec (.neg d) s = .next t ∧ OnlyRegsFlags 1 s t ∧ res = 0#8 - s.reg d ∧ t.reg d = res ∧ OthersKept d s t ∧
      FlagsSub 0#8 (s.reg d) res t.sreg ∧ FlagZ res t.sreg ∧ KeptTI s.sreg t.sreg ∧
      t.sreg.h = ((s.reg d).getLsbD 3 || res.getLsbD 3) ∧ t.sreg.v = decide (res = 0x80#8) ∧
      t.sreg.c = decide (res ≠ 0#8)) ∧
    (∃ t res, exec (.inc d) s = .next t ∧ OnlyRegsFlags 1 s t ∧ res = s.reg d + 1#8 ∧ t.reg d = res ∧ OthersKept d s t ∧
      FlagsNVS res (decide (res = 0x80#8)) t.sreg ∧ FlagZ res t.sreg ∧ KeptTI s.sreg t.sreg ∧
      t.sreg.c = s.sreg.c ∧ t.sreg.h = s.sreg.h) ∧
    (∃ t res, exec (.dec d) s = .next t ∧ OnlyRegsFlags 1 s t ∧ res = s.reg d - 1#8 ∧ t.reg d = res ∧ OthersKept d s t ∧
      FlagsNVS res (decide (res = 0x7F#8)) t.sreg ∧ FlagZ res t.sreg ∧ KeptTI s.sreg t.sreg ∧
      t.sreg.c = s.sreg.c ∧ t.sreg.h = s.sreg.h)

/-- AND, ANDI, OR, ORI, EOR and COM: R217..R222, R203. -/
def Obligations.LogicResultsAndFlags : Prop :=
  Encodes 0x2000#16 0xFC00#16 (fun op _ => .and (d5 op) (r5 op)) ∧
  Encodes 0x7000#16 0xF000#16 (fun op _ => .andi (d4 op) (k8 op)) ∧
  Encodes 0x2800#16 0xFC00#16 (fun op _ => .or (d5 op) (r5 op)) ∧
  Encodes 0x6000#16 0xF000#16 (fun op _ => .ori (d4 op) (k8 op)) ∧
  Encodes 0x2400#16 0xFC00#16 (fun op _ => .eor (d5 op) (r5 op)) ∧
  Encodes 0x9400#16 0xFE0F#16 (fun op _ => .com (d5 op)) ∧
  ∀ (d r : Reg) (k : Byte) (s : State),
    (∀ i res, (i = .and d r ∧ res = s.reg d &&& s.reg r) ∨ (i = .andi d k ∧ res = s.reg d &&& k) ∨
        (i = .or d r ∧ res = s.reg d ||| s.reg r) ∨ (i = .ori d k ∧ res = s.reg d ||| k) ∨
        (i = .eor d r ∧ res = s.reg d ^^^ s.reg r) →
      ∃ t, exec i s = .next t ∧ OnlyRegsFlags 1 s t ∧ t.reg d = res ∧ OthersKept d s t ∧ FlagsNVS res false t.sreg ∧
        FlagZ res t.sreg ∧ KeptTI s.sreg t.sreg ∧ t.sreg.c = s.sreg.c ∧ t.sreg.h = s.sreg.h) ∧
    (∃ t res, exec (.com d) s = .next t ∧ OnlyRegsFlags 1 s t ∧ res = 0xFF#8 - s.reg d ∧ t.reg d = res ∧
      OthersKept d s t ∧ FlagsNVS res false t.sreg ∧ FlagZ res t.sreg ∧ KeptTI s.sreg t.sreg ∧
      t.sreg.c = true ∧ t.sreg.h = s.sreg.h)

/-- LSR, ASR, ROR and SWAP: R223..R226. The result is given bit by bit. -/
def Obligations.ShiftsAndSwapResultsAndFlags : Prop :=
  Encodes 0x9406#16 0xFE0F#16 (fun op _ => .lsr (d5 op)) ∧
  Encodes 0x9405#16 0xFE0F#16 (fun op _ => .asr (d5 op)) ∧
  Encodes 0x9407#16 0xFE0F#16 (fun op _ => .ror (d5 op)) ∧
  Encodes 0x9402#16 0xFE0F#16 (fun op _ => .swap (d5 op)) ∧
  ∀ (d : Reg) (s : State),
    (∀ i top, (i = .lsr d ∧ top = false) ∨ (i = .asr d ∧ top = (s.reg d).getLsbD 7) ∨ (i = .ror d ∧ top = s.sreg.c) →
      ∃ t res, exec i s = .next t ∧ OnlyRegsFlags 1 s t ∧ t.reg d = res ∧ OthersKept d s t ∧
        res.getLsbD 7 = top ∧ (∀ k, k < 7 → res.getLsbD k = (s.reg d).getLsbD (k + 1)) ∧
        t.sreg.c = (s.reg d).getLsbD 0 ∧ FlagsNVS res (xor top ((s.reg d).getLsbD 0)) t.sreg ∧ FlagZ res t.sreg ∧
        KeptTI s.sreg t.sreg ∧ t.sreg.h = s.sreg.h) ∧
    (∃ t, exec (.swap d) s = .next t ∧ OnlyRegs 1 s t ∧ OthersKept d s t ∧
      ∀ k, k < 4 → (t.reg d).getLsbD k = (s.reg d).getLsbD (k + 4) ∧ (t.reg d).getLsbD (k + 4) = (s.reg d).getLsbD k)

/-- ADIW and SBIW: R227, R228. -/
def Obligations.AdiwAndSbiwPairsAndFlags : Prop :=
  Encodes 0x9600#16 0xFF00#16 (fun op _ => .adiw (dp op) (k6 op)) ∧
  Encodes 0x9700#16 0xFF00#16 (fun op _ => .sbiw (dp op) (k6 op)) ∧
  ∀ (d : Reg) (k : BitVec 6) (s : State),
    (∃ t res, exec (.adiw d k) s = .next t ∧ OnlyRegsFlags 2 s t ∧ res = (s.reg (d + 1) ++ s.reg d) + k.zeroExtend 16 ∧
      t.reg d = res.extractLsb' 0 8 ∧ t.reg (d + 1) = res.extractLsb' 8 8 ∧ OutsidePairKept d s t ∧
      t.sreg.n = res.getLsbD 15 ∧ t.sreg.v = (res.getLsbD 15 && !(s.reg (d + 1)).getLsbD 7) ∧
      t.sreg.c = (!res.getLsbD 15 && (s.reg (d + 1)).getLsbD 7) ∧ t.sreg.z = decide (res = 0#16) ∧
      t.sreg.s = xor (res.getLsbD 15) (res.getLsbD 15 && !(s.reg (d + 1)).getLsbD 7) ∧
      t.sreg.h = s.sreg.h ∧ KeptTI s.sreg t.sreg) ∧
    (∃ t res, exec (.sbiw d k) s = .next t ∧ OnlyRegsFlags 2 s t ∧ res = (s.reg (d + 1) ++ s.reg d) - k.zeroExtend 16 ∧
      t.reg d = res.extractLsb' 0 8 ∧ t.reg (d + 1) = res.extractLsb' 8 8 ∧ OutsidePairKept d s t ∧
      t.sreg.n = res.getLsbD 15 ∧ t.sreg.v = (!res.getLsbD 15 && (s.reg (d + 1)).getLsbD 7) ∧
      t.sreg.c = (res.getLsbD 15 && !(s.reg (d + 1)).getLsbD 7) ∧ t.sreg.z = decide (res = 0#16) ∧
      t.sreg.s = xor (res.getLsbD 15) (!res.getLsbD 15 && (s.reg (d + 1)).getLsbD 7) ∧
      t.sreg.h = s.sreg.h ∧ KeptTI s.sreg t.sreg)

/-- MUL, MULS and MULSU: R229, R230, R231. The product is the exact one: unsigned, signed, signed by unsigned. -/
def Obligations.MultipliesGiveTheExactProduct : Prop :=
  Encodes 0x9C00#16 0xFC00#16 (fun op _ => .mul (d5 op) (r5 op)) ∧
  Encodes 0x0200#16 0xFF00#16 (fun op _ => .muls (d4 op) (r4 op)) ∧
  Encodes 0x0300#16 0xFF88#16 (fun op _ => .mulsu (d3 op) (r3 op)) ∧
  ∀ (d r : Reg) (s : State) (i : Instr), i = .mul d r ∨ i = .muls d r ∨ i = .mulsu d r →
    ∃ t res, exec i s = .next t ∧ OnlyRegsFlags 2 s t ∧ t.reg 0 = res.extractLsb' 0 8 ∧ t.reg 1 = res.extractLsb' 8 8 ∧
      OutsidePairKept 0 s t ∧
      (i = .mul d r → res.toNat = (s.reg d).toNat * (s.reg r).toNat) ∧
      (i = .muls d r → res.toInt = (s.reg d).toInt * (s.reg r).toInt) ∧
      (i = .mulsu d r → res.toInt = (s.reg d).toInt * ((s.reg r).toNat : Int)) ∧
      t.sreg = { s.sreg with c := res.getLsbD 15, z := decide (res = 0#16) }

/-- FMUL, FMULS and FMULSU: R232, R233, R234: twice the product, C from the product, Z from what is written. -/
def Obligations.FractionalMultipliesShiftTheProduct : Prop :=
  Encodes 0x0308#16 0xFF88#16 (fun op _ => .fmul (d3 op) (r3 op)) ∧
  Encodes 0x0380#16 0xFF88#16 (fun op _ => .fmuls (d3 op) (r3 op)) ∧
  Encodes 0x0388#16 0xFF88#16 (fun op _ => .fmulsu (d3 op) (r3 op)) ∧
  ∀ (d r : Reg) (s : State) (i : Instr), i = .fmul d r ∨ i = .fmuls d r ∨ i = .fmulsu d r →
    ∃ (t : State) (p res : Word), exec i s = .next t ∧ OnlyRegsFlags 2 s t ∧ t.reg 0 = res.extractLsb' 0 8 ∧
      t.reg 1 = res.extractLsb' 8 8 ∧ OutsidePairKept 0 s t ∧
      (i = .fmul d r → p.toNat = (s.reg d).toNat * (s.reg r).toNat) ∧
      (i = .fmuls d r → p.toInt = (s.reg d).toInt * (s.reg r).toInt) ∧
      (i = .fmulsu d r → p.toInt = (s.reg d).toInt * ((s.reg r).toNat : Int)) ∧
      res.toNat = p.toNat * 2 % 65536 ∧
      t.sreg = { s.sreg with c := p.getLsbD 15, z := decide (res = 0#16) }

/-- What H, C and V of R201 and R202 say of the numbers: a carry or borrow out of bit 3 and of bit 7, and a result outside
-128..127. -/
def Obligations.ByteFlagsMeanCarryBorrowOverflow : Prop :=
  ∀ (d r : Reg) (s : State),
    (∃ t, exec (.adc d r) s = .next t ∧
      t.sreg.h = decide (16 ≤ (s.reg d).toNat % 16 + (s.reg r).toNat % 16 + s.sreg.c.toNat) ∧
      t.sreg.c = decide (256 ≤ (s.reg d).toNat + (s.reg r).toNat + s.sreg.c.toNat) ∧
      t.sreg.v = decide ((s.reg d).toInt + (s.reg r).toInt + (s.sreg.c.toNat : Int) < -128 ∨
        127 < (s.reg d).toInt + (s.reg r).toInt + (s.sreg.c.toNat : Int)) ∧
      t.sreg.s = decide ((s.reg d).toInt + (s.reg r).toInt + (s.sreg.c.toNat : Int) < 0)) ∧
    (∃ t, exec (.sbc d r) s = .next t ∧
      t.sreg.h = decide ((s.reg d).toNat % 16 < (s.reg r).toNat % 16 + s.sreg.c.toNat) ∧
      t.sreg.c = decide ((s.reg d).toNat < (s.reg r).toNat + s.sreg.c.toNat) ∧
      t.sreg.v = decide ((s.reg d).toInt - (s.reg r).toInt - (s.sreg.c.toNat : Int) < -128 ∨
        127 < (s.reg d).toInt - (s.reg r).toInt - (s.sreg.c.toNat : Int)) ∧
      t.sreg.s = decide ((s.reg d).toInt - (s.reg r).toInt - (s.sreg.c.toNat : Int) < 0)) ∧
    (∃ t, exec (.cp d r) s = .next t ∧ t.sreg.c = decide ((s.reg d).toNat < (s.reg r).toNat) ∧
      t.sreg.z = decide (s.reg d = s.reg r) ∧ t.sreg.s = decide ((s.reg d).toInt < (s.reg r).toInt))

/-- What C, V and S of ADIW and SBIW say of the 16-bit numbers. -/
def Obligations.WordFlagsMeanCarryBorrowOverflow : Prop :=
  ∀ (d : Reg) (k : BitVec 6) (s : State) (w : Word), w = s.reg (d + 1) ++ s.reg d →
    (∃ t, exec (.adiw d k) s = .next t ∧
      t.sreg.c = decide (65536 ≤ w.toNat + k.toNat) ∧
      t.sreg.v = decide (32767 < w.toInt + (k.toNat : Int)) ∧
      t.sreg.s = decide (w.toInt + (k.toNat : Int) < 0)) ∧
    (∃ t, exec (.sbiw d k) s = .next t ∧
      t.sreg.c = decide (w.toNat < k.toNat) ∧
      t.sreg.v = decide (w.toInt - (k.toNat : Int) < -32768) ∧
      t.sreg.s = decide (w.toInt - (k.toNat : Int) < 0))

/-! ## Control flow -/

/-- RJMP, JMP, IJMP and, with a 22-bit PC, EIJMP: R300..R303. -/
def Obligations.JumpsWriteTheirTarget : Prop :=
  Encodes 0xC000#16 0xF000#16 (fun op _ => .rjmp (k12 op)) ∧
  Encodes 0x940C#16 0xFE0E#16 (fun op op2 => .jmp (k22 op op2)) ∧
  Encodes 0x9409#16 0xFFFF#16 (fun _ _ => .ijmp) ∧
  Encodes 0x9419#16 0xFFFF#16 (fun _ _ => .eijmp) ∧
  ∀ s : State,
    (∀ k : BitVec 12, ∃ t, exec (.rjmp k) s = .next t ∧ OnlyPc 2 (s.pc + k.signExtend 22) s t) ∧
    (∀ k : BitVec 22, ∃ t, exec (.jmp k) s = .next t ∧ OnlyPc 3 k s t) ∧
    (∃ t, exec .ijmp s = .next t ∧ OnlyPc 2 ((s.reg 31 ++ s.reg 30).zeroExtend 22) s t) ∧
    (s.params.pcWidth = .pc22 → ∃ t, exec .eijmp s = .next t ∧
      OnlyPc 2 ((s.eind ++ (s.reg 31 ++ s.reg 30)).extractLsb' 0 22) s t) ∧
    (s.params.pcWidth = .pc16 → ∃ t, exec .eijmp s = .next t ∧ FailedFrom (.invalidOperation s.pc0 0x9419#16) s t)

/-- The calls: R305..R308, R304, R85. Where the backend takes the two or three bytes of the return address, they lie from SP
downward, low byte first, and the pc is the target. EICALL with a 16-bit PC fails before any access. That every other byte
of the backend is as before, and a byte pushed is held, where no push is to an oracle's address and the byte's address is
plain memory, is the model's choice (log 10). -/
def Obligations.CallsPushTheReturnAddress : Prop :=
  Encodes 0xD000#16 0xF000#16 (fun op _ => .rcall (k12 op)) ∧
  Encodes 0x940E#16 0xFE0E#16 (fun op op2 => .call (k22 op op2)) ∧
  Encodes 0x9509#16 0xFFFF#16 (fun _ _ => .icall) ∧
  Encodes 0x9519#16 0xFFFF#16 (fun _ _ => .eicall) ∧
  (∀ (s : State) (i : Instr) (target : PcWord) (n : Nat),
    ((∃ k : BitVec 12, i = .rcall k ∧ target = s.pc + k.signExtend 22 ∧ n = if s.params.pcWidth = .pc16 then 3 else 4) ∨
     (i = .call target ∧ n = if s.params.pcWidth = .pc16 then 4 else 5) ∨
     (i = .icall ∧ target = (s.reg 31 ++ s.reg 30).zeroExtend 22 ∧ n = if s.params.pcWidth = .pc16 then 3 else 4) ∨
     (i = .eicall ∧ s.params.pcWidth = .pc22 ∧ target = (s.eind ++ (s.reg 31 ++ s.reg 30)).extractLsb' 0 22 ∧ n = 4)) →
    TakesAll (returnPushes s.params.pcWidth s.sp s.pc) s →
    ∃ t, exec i s = .next t ∧
      Ran n (offers (returnPushes s.params.pcWidth s.sp s.pc))
        { s with pc := maskPc s.params.pcWidth target, sp := s.sp - returnBytes s.params.pcWidth } t ∧
      (Undisturbed s (offers (returnPushes s.params.pcWidth s.sp s.pc)) →
        ∀ x ∈ returnPushes s.params.pcWidth s.sp s.pc, HoldsWrites s x.1 → Memory.read t.data x.1.toNat = x.2)) ∧
  ∀ s : State, s.params.pcWidth = .pc16 →
    ∃ t, exec .eicall s = .next t ∧ FailedFrom (.invalidOperation s.pc0 0x9519#16) s t

/-- R304, R620: a call whose n-th push fails keeps the bytes pushed before and SP's decrements for them, and does not
jump. Nothing else changes: of the backend, every byte outside the bytes offered is as before where no push is to an
oracle's address, and of the byte whose write failed nothing is said (R77); both are the model's choice (log 10, log 11). -/
def Obligations.FailedPushLeavesACallHalfDone : Prop :=
  ∀ (s : State) (i : Instr), (∃ k, i = .rcall k) ∨ (∃ k, i = .call k) ∨ i = .icall ∨
      (i = .eicall ∧ s.params.pcWidth = .pc22) →
    (Rejects s s.sp (s.pc.extractLsb' 0 8) → ∃ t, exec i s = .next t ∧
      FailedAfter (.addressUnwritable s.sp.toNat (s.pc.extractLsb' 0 8))
        (offers [(s.sp, s.pc.extractLsb' 0 8)]) s t) ∧
    (Takes s s.sp (s.pc.extractLsb' 0 8) →
      Rejects (writeDataMemory s.sp (s.pc.extractLsb' 0 8) s).2 (s.sp - 1#16) (s.pc.extractLsb' 8 8) →
      ∃ t, exec i s = .next t ∧
        FailedAfter (.addressUnwritable (s.sp - 1#16).toNat (s.pc.extractLsb' 8 8))
          (offers (returnPushes .pc16 s.sp s.pc)) { s with sp := s.sp - 1#16 } t ∧
        (Undisturbed s (offers (returnPushes .pc16 s.sp s.pc)) →
          HoldsWrites s s.sp → Memory.read t.data s.sp.toNat = s.pc.extractLsb' 0 8)) ∧
    (s.params.pcWidth = .pc22 →
      TakesAll [(s.sp, s.pc.extractLsb' 0 8), (s.sp - 1#16, s.pc.extractLsb' 8 8)] s →
      Rejects (writeDataMemory (s.sp - 1#16) (s.pc.extractLsb' 8 8)
          (writeDataMemory s.sp (s.pc.extractLsb' 0 8) s).2).2
        (s.sp - 2#16) ((s.pc.extractLsb' 16 6).zeroExtend 8) →
      ∃ t, exec i s = .next t ∧
        FailedAfter (.addressUnwritable (s.sp - 2#16).toNat ((s.pc.extractLsb' 16 6).zeroExtend 8))
          (offers (returnPushes .pc22 s.sp s.pc)) { s with sp := s.sp - 2#16 } t ∧
        (Undisturbed s (offers (returnPushes .pc22 s.sp s.pc)) →
          (HoldsWrites s s.sp → Memory.read t.data s.sp.toNat = s.pc.extractLsb' 0 8) ∧
          (HoldsWrites s (s.sp - 1#16) → Memory.read t.data (s.sp - 1#16).toNat = s.pc.extractLsb' 8 8)))

/-- RET and RETI: R309, R310, R81: the bytes above SP, most significant first, masked; RETI sets I. That the reads leave the
backend as it was, but at an oracle's address, is the model's choice (log 10; R89 lets a read have side effects). -/
def Obligations.ReturnsPopThePc : Prop :=
  Encodes 0x9508#16 0xFFFF#16 (fun _ _ => .ret) ∧
  Encodes 0x9518#16 0xFFFF#16 (fun _ _ => .reti) ∧
  ∀ (s : State) (i : Instr) (f : Sreg), i = .ret ∨ i = .reti →
    f = (if i = .reti then { s.sreg with i := true } else s.sreg) →
    (s.params.pcWidth = .pc16 → ∀ h l : Byte, AnswersAll [(s.sp + 1#16, h), (s.sp + 2#16, l)] s → ∃ t,
      exec i s = .next t ∧
      Ran 4 [.dataRead (s.sp + 1#16).toNat, .dataRead (s.sp + 2#16).toNat]
        { s with pc := (h ++ l).zeroExtend 22, sp := s.sp + 2#16, sreg := f } t) ∧
    (s.params.pcWidth = .pc22 → ∀ e h l : Byte,
      AnswersAll [(s.sp + 1#16, e), (s.sp + 2#16, h), (s.sp + 3#16, l)] s → ∃ t,
      exec i s = .next t ∧
      Ran 5 [.dataRead (s.sp + 1#16).toNat, .dataRead (s.sp + 2#16).toNat, .dataRead (s.sp + 3#16).toNat]
        { s with pc := (e ++ h ++ l).extractLsb' 0 22, sp := s.sp + 3#16, sreg := f } t) ∧
    (Silent s (s.sp + 1#16) → ∃ t, exec i s = .next t ∧
      FailedAfter (.addressUnreadable .data (s.sp + 1#16).toNat) [.dataRead (s.sp + 1#16).toNat]
        { s with sp := s.sp + 1#16 } t) ∧
    (∀ x, Answers s (s.sp + 1#16) x → Silent (readDataMemory (s.sp + 1#16) s).2 (s.sp + 2#16) → ∃ t,
      exec i s = .next t ∧
      FailedAfter (.addressUnreadable .data (s.sp + 2#16).toNat)
        [.dataRead (s.sp + 1#16).toNat, .dataRead (s.sp + 2#16).toNat] { s with sp := s.sp + 2#16 } t) ∧
    (s.params.pcWidth = .pc22 → ∀ x y, AnswersAll [(s.sp + 1#16, x), (s.sp + 2#16, y)] s →
      Silent (readDataMemory (s.sp + 2#16) (readDataMemory (s.sp + 1#16) s).2).2 (s.sp + 3#16) → ∃ t,
      exec i s = .next t ∧
      FailedAfter (.addressUnreadable .data (s.sp + 3#16).toNat)
        [.dataRead (s.sp + 1#16).toNat, .dataRead (s.sp + 2#16).toNat, .dataRead (s.sp + 3#16).toNat]
        { s with sp := s.sp + 3#16 } t)

/-- R321: a call followed by RET, with the stack bytes unchanged between them in plain memory, restores the pc to the
address after the call and SP to what it was. Which addresses are plain memory is data of the model (log 10). -/
def Obligations.CallThenReturnRestoresPcAndSp : Prop :=
  ∀ (s t u : State) (i : Instr), (∃ k, i = .rcall k) ∨ (∃ k, i = .call k) ∨ i = .icall ∨
      (i = .eicall ∧ s.params.pcWidth = .pc22) →
    s.pcInRange = true →
    (∀ x ∈ returnPushes s.params.pcWidth s.sp s.pc, regionKind s.regions x.1.toNat = .ram) →
    exec i s = .next t →
    u.params = t.params → u.regions = t.regions → u.sp = t.sp →
    (∀ x ∈ returnPushes s.params.pcWidth s.sp s.pc,
      Memory.read u.data x.1.toNat = Memory.read t.data x.1.toNat) →
    ∃ v, exec .ret u = .next v ∧ v.pc = s.pc ∧ v.sp = s.sp

/-- BRBS and BRBC: R311, R312, R313. -/
def Obligations.BranchesTestOneFlag : Prop :=
  Encodes 0xF000#16 0xFC00#16 (fun op _ => .brbs (b3 op) (k7 op)) ∧
  Encodes 0xF400#16 0xFC00#16 (fun op _ => .brbc (b3 op) (k7 op)) ∧
  ∀ (b : BitNo) (k : BitVec 7) (s : State),
    (∀ i, (i = .brbs b k ∧ s.sreg.toByte.getLsbD b.val = true) ∨ (i = .brbc b k ∧ s.sreg.toByte.getLsbD b.val = false) →
      ∃ t, exec i s = .next t ∧ OnlyPc 2 (s.pc + k.signExtend 22) s t) ∧
    (∀ i, (i = .brbs b k ∧ s.sreg.toByte.getLsbD b.val = false) ∨ (i = .brbc b k ∧ s.sreg.toByte.getLsbD b.val = true) →
      ∃ t, exec i s = .next t ∧ t = { s with cycles := s.cycles + 1#64, result := .ok 1 })

/-- CPSE, SBRC, SBRS, SBIC and SBIS: R314..R319. The I/O forms read their byte once, whether or not they skip. That a read
leaves the backend as it was, but at an oracle's address, is the model's choice (log 10; R89 lets a read have side
effects). -/
def Obligations.SkipsPassTheNextInstruction : Prop :=
  Encodes 0x1000#16 0xFC00#16 (fun op _ => .cpse (d5 op) (r5 op)) ∧
  Encodes 0xFC00#16 0xFE08#16 (fun op _ => .sbrc (d5 op) (b3 op)) ∧
  Encodes 0xFE00#16 0xFE08#16 (fun op _ => .sbrs (d5 op) (b3 op)) ∧
  Encodes 0x9900#16 0xFF00#16 (fun op _ => .sbic (a5 op) (b3 op)) ∧
  Encodes 0x9B00#16 0xFF00#16 (fun op _ => .sbis (a5 op) (b3 op)) ∧
  ∀ s : State,
    (∀ d r, Skips (exec (.cpse d r) s) (decide (s.reg d = s.reg r)) s) ∧
    (∀ r (b : BitNo), Skips (exec (.sbrc r b) s) (!(s.reg r).getLsbD b.val) s) ∧
    (∀ r (b : BitNo), Skips (exec (.sbrs r b) s) ((s.reg r).getLsbD b.val) s) ∧
    (∀ (a : BitVec 5) (b : BitNo) (addr : Word), addr.toNat = 0x20 + a.toNat →
      (∀ v u, Answers s addr v → u = (readDataMemory addr s).2 → Called [.dataRead addr.toNat] s u ∧
        Skips (exec (.sbic a b) s) (!v.getLsbD b.val) u ∧ Skips (exec (.sbis a b) s) (v.getLsbD b.val) u) ∧
      (Silent s addr → ∀ i, i = .sbic a b ∨ i = .sbis a b →
        ∃ t, exec i s = .next t ∧ LoadFailed addr s t ∧ t.regs = s.regs))

/-! ## Data transfer -/

/-- MOV, MOVW and LDI: R400, R401, R402. -/
def Obligations.MovesCopyRegisters : Prop :=
  Encodes 0x2C00#16 0xFC00#16 (fun op _ => .mov (d5 op) (r5 op)) ∧
  Encodes 0x0100#16 0xFF00#16 (fun op _ => .movw (dw op) (rw op)) ∧
  Encodes 0xE000#16 0xF000#16 (fun op _ => .ldi (d4 op) (k8 op)) ∧
  ∀ (d r : Reg) (k : Byte) (s : State),
    (∃ t, exec (.mov d r) s = .next t ∧ OnlyRegs 1 s t ∧ t.reg d = s.reg r ∧ OthersKept d s t) ∧
    (∃ t, exec (.movw d r) s = .next t ∧ OnlyRegs 1 s t ∧ t.reg d = s.reg r ∧ t.reg (d + 1) = s.reg (r + 1) ∧
      OutsidePairKept d s t) ∧
    (∃ t, exec (.ldi d k) s = .next t ∧ OnlyRegs 1 s t ∧ t.reg d = k ∧ OthersKept d s t)

/-- LD through X unchanged, LDD through Y and Z, LDS: R404, R409, R412, R422, R403. That a read leaves the backend as it
was, but at an oracle's address, is the model's choice (log 10; R89 lets a read have side effects). -/
def Obligations.PlainLoadsReadOneByte : Prop :=
  Encodes 0x900C#16 0xFE0F#16 (fun op _ => .ldX (d5 op)) ∧
  Encodes 0x8008#16 0xD208#16 (fun op _ => .lddY (d5 op) (q6 op)) ∧
  Encodes 0x8000#16 0xD208#16 (fun op _ => .lddZ (d5 op) (q6 op)) ∧
  Encodes 0x9000#16 0xFE0F#16 (fun op op2 => .lds (d5 op) op2) ∧
  ∀ (d : Reg) (q : BitVec 6) (k : Word) (s : State),
    LoadsPlain 2 (.ldX d) d (s.reg 27 ++ s.reg 26) s ∧
    LoadsPlain 2 (.lddY d q) d ((s.reg 29 ++ s.reg 28) + q.zeroExtend 16) s ∧
    LoadsPlain 2 (.lddZ d q) d ((s.reg 31 ++ s.reg 30) + q.zeroExtend 16) s ∧
    LoadsPlain 2 (.lds d k) d k s

/-- LD with post-increment and pre-decrement: R405..R408, R410, R411, R403, R131. That a read leaves the backend as it
was, but at an oracle's address, is the model's choice (log 10; R89 lets a read have side effects). -/
def Obligations.AutoModifyLoadsWriteThePointerFirst : Prop :=
  Encodes 0x900D#16 0xFE0F#16 (fun op _ => .ldXInc (d5 op)) ∧
  Encodes 0x900E#16 0xFE0F#16 (fun op _ => .ldXDec (d5 op)) ∧
  Encodes 0x9009#16 0xFE0F#16 (fun op _ => .ldYInc (d5 op)) ∧
  Encodes 0x900A#16 0xFE0F#16 (fun op _ => .ldYDec (d5 op)) ∧
  Encodes 0x9001#16 0xFE0F#16 (fun op _ => .ldZInc (d5 op)) ∧
  Encodes 0x9002#16 0xFE0F#16 (fun op _ => .ldZDec (d5 op)) ∧
  ∀ (d : Reg) (s : State),
    LoadsAuto (.ldXInc d) .x d (s.ptr .x) (s.ptr .x + 1#16) s ∧
    LoadsAuto (.ldXDec d) .x d (s.ptr .x - 1#16) (s.ptr .x - 1#16) s ∧
    LoadsAuto (.ldYInc d) .y d (s.ptr .y) (s.ptr .y + 1#16) s ∧
    LoadsAuto (.ldYDec d) .y d (s.ptr .y - 1#16) (s.ptr .y - 1#16) s ∧
    LoadsAuto (.ldZInc d) .z d (s.ptr .z) (s.ptr .z + 1#16) s ∧
    LoadsAuto (.ldZDec d) .z d (s.ptr .z - 1#16) (s.ptr .z - 1#16) s

/-- ST through X unchanged, STD through Y and Z, STS: R413, R418, R421, R423, R403. What the backend holds afterwards,
that byte where it is plain memory and every other where no oracle's address is written, is the model's choice (log 10,
log 11). -/
def Obligations.PlainStoresWriteOneByte : Prop :=
  Encodes 0x920C#16 0xFE0F#16 (fun op _ => .stX (d5 op)) ∧
  Encodes 0x8208#16 0xD208#16 (fun op _ => .stdY (q6 op) (d5 op)) ∧
  Encodes 0x8200#16 0xD208#16 (fun op _ => .stdZ (q6 op) (d5 op)) ∧
  Encodes 0x9200#16 0xFE0F#16 (fun op op2 => .sts op2 (d5 op)) ∧
  ∀ (r : Reg) (q : BitVec 6) (k : Word) (s : State),
    StoresPlain 2 (.stX r) r (s.reg 27 ++ s.reg 26) s ∧
    StoresPlain 2 (.stdY q r) r ((s.reg 29 ++ s.reg 28) + q.zeroExtend 16) s ∧
    StoresPlain 2 (.stdZ q r) r ((s.reg 31 ++ s.reg 30) + q.zeroExtend 16) s ∧
    StoresPlain 2 (.sts k r) r k s

/-- ST with post-increment and pre-decrement: R414..R417, R419, R420, R403, R131. What the backend holds afterwards, that
byte where it is plain memory and every other where no oracle's address is written, is the model's choice (log 10, log
11). -/
def Obligations.AutoModifyStoresWriteThePointerFirst : Prop :=
  Encodes 0x920D#16 0xFE0F#16 (fun op _ => .stXInc (d5 op)) ∧
  Encodes 0x920E#16 0xFE0F#16 (fun op _ => .stXDec (d5 op)) ∧
  Encodes 0x9209#16 0xFE0F#16 (fun op _ => .stYInc (d5 op)) ∧
  Encodes 0x920A#16 0xFE0F#16 (fun op _ => .stYDec (d5 op)) ∧
  Encodes 0x9201#16 0xFE0F#16 (fun op _ => .stZInc (d5 op)) ∧
  Encodes 0x9202#16 0xFE0F#16 (fun op _ => .stZDec (d5 op)) ∧
  ∀ (r : Reg) (s : State),
    StoresAuto (.stXInc r) .x r (s.ptr .x) (s.ptr .x + 1#16) s ∧
    StoresAuto (.stXDec r) .x r (s.ptr .x - 1#16) (s.ptr .x - 1#16) s ∧
    StoresAuto (.stYInc r) .y r (s.ptr .y) (s.ptr .y + 1#16) s ∧
    StoresAuto (.stYDec r) .y r (s.ptr .y - 1#16) (s.ptr .y - 1#16) s ∧
    StoresAuto (.stZInc r) .z r (s.ptr .z) (s.ptr .z + 1#16) s ∧
    StoresAuto (.stZDec r) .z r (s.ptr .z - 1#16) (s.ptr .z - 1#16) s

/-- R131, R710, R731: each of the 14 auto-modify forms whose register is a byte of its own pointer is refused, in every
state. That `ELPM Rd, Z+` is refused with a 16-bit PC too, before R603's check, is the model's inference (log 15). -/
def Obligations.OwnPointerFormsAreRefused : Prop :=
  ∀ (r : Reg) (s : State) (i : Instr),
    ((r = 26 ∨ r = 27) ∧ (i = .ldXInc r ∨ i = .ldXDec r ∨ i = .stXInc r ∨ i = .stXDec r)) ∨
    ((r = 28 ∨ r = 29) ∧ (i = .ldYInc r ∨ i = .ldYDec r ∨ i = .stYInc r ∨ i = .stYDec r)) ∨
    ((r = 30 ∨ r = 31) ∧
      (i = .ldZInc r ∨ i = .ldZDec r ∨ i = .stZInc r ∨ i = .stZDec r ∨ i = .lpmZInc r ∨ i = .elpmZInc r)) →
    exec i s = .refused (.ownPointer s.pc0 (opWord i)) ∧ opWord i ∈ ownPointerWords

/-- LPM, its three forms: R424, R425, R426. That the read leaves the backend as it was, but at an oracle's address, is the
model's choice (log 8, log 10). -/
def Obligations.LpmLoadsAByteOfAProgramWord : Prop :=
  Encodes 0x95C8#16 0xFFFF#16 (fun _ _ => .lpm) ∧
  Encodes 0x9004#16 0xFE0F#16 (fun op _ => .lpmZ (d5 op)) ∧
  Encodes 0x9005#16 0xFE0F#16 (fun op _ => .lpmZInc (d5 op)) ∧
  ∀ (d : Reg) (s : State) (a : Nat) (wa : BitVec 32), a = (s.ptr .z).toNat → wa.toNat = a / 2 →
    (Ptr.z.isByte d = true → exec (.lpmZInc d) s = .refused (.ownPointer s.pc0 (opWord (.lpmZInc d)))) ∧
    (∀ w, AnswersWord s wa w →
      (∃ t, exec .lpm s = .next t ∧ ProgLoadFrame a s t ∧ t.rampz = s.rampz ∧ t.reg 0 = programByte a w ∧
        OthersKept 0 s t) ∧
      (∃ t, exec (.lpmZ d) s = .next t ∧ ProgLoadFrame a s t ∧ t.rampz = s.rampz ∧ t.reg d = programByte a w ∧
        OthersKept d s t) ∧
      (Ptr.z.isByte d = false → ∃ t, exec (.lpmZInc d) s = .next t ∧ ProgLoadFrame a s t ∧ t.rampz = s.rampz ∧
        t.reg d = programByte a w ∧ t.ptr .z = s.ptr .z + 1#16 ∧
        ∀ j, j ≠ d → Ptr.z.isByte j = false → t.reg j = s.reg j)) ∧
    (SilentWord s wa →
      (∀ i, i = .lpm ∨ i = .lpmZ d → ∃ t, exec i s = .next t ∧ ProgLoadFailed a s t ∧ t.rampz = s.rampz ∧
        t.regs = s.regs) ∧
      (Ptr.z.isByte d = false → ∃ t, exec (.lpmZInc d) s = .next t ∧ ProgLoadFailed a s t ∧ t.rampz = s.rampz ∧
        t.ptr .z = s.ptr .z + 1#16 ∧ OutsidePtrKept .z s t))

/-- ELPM, its three forms: R427, R428, R429: with a 22-bit PC the byte address is RAMPZ:Z, and `ELPM Rd, Z+` carries into
RAMPZ; with a 16-bit PC they fail before any access. That the read leaves the backend as it was, but at an oracle's
address, is the model's choice (log 8, log 10); that the own-pointer form is refused whatever the PC is log 15. -/
def Obligations.ElpmLoadsThroughRampzAndZ : Prop :=
  Encodes 0x95D8#16 0xFFFF#16 (fun _ _ => .elpm) ∧
  Encodes 0x9006#16 0xFE0F#16 (fun op _ => .elpmZ (d5 op)) ∧
  Encodes 0x9007#16 0xFE0F#16 (fun op _ => .elpmZInc (d5 op)) ∧
  ∀ (d : Reg) (s : State) (a : Nat) (wa : BitVec 32), a = s.rampz.toNat * 65536 + (s.ptr .z).toNat → wa.toNat = a / 2 →
    (Ptr.z.isByte d = true → exec (.elpmZInc d) s = .refused (.ownPointer s.pc0 (opWord (.elpmZInc d)))) ∧
    (s.params.pcWidth = .pc16 → ∀ i, i = .elpm ∨ i = .elpmZ d ∨ (i = .elpmZInc d ∧ Ptr.z.isByte d = false) →
      ∃ t, exec i s = .next t ∧ FailedFrom (.invalidOperation s.pc0 (opWord i)) s t) ∧
    (s.params.pcWidth = .pc22 → ∀ w, AnswersWord s wa w →
      (∃ t, exec .elpm s = .next t ∧ ProgLoadFrame a s t ∧ t.rampz = s.rampz ∧ t.reg 0 = programByte a w ∧
        OthersKept 0 s t) ∧
      (∃ t, exec (.elpmZ d) s = .next t ∧ ProgLoadFrame a s t ∧ t.rampz = s.rampz ∧ t.reg d = programByte a w ∧
        OthersKept d s t) ∧
      (Ptr.z.isByte d = false → ∃ t, exec (.elpmZInc d) s = .next t ∧ ProgLoadFrame a s t ∧
        t.rampz.toNat * 65536 + (t.ptr .z).toNat = (a + 1) % 16777216 ∧ t.reg d = programByte a w ∧
        ∀ j, j ≠ d → Ptr.z.isByte j = false → t.reg j = s.reg j)) ∧
    (s.params.pcWidth = .pc22 → SilentWord s wa →
      (∀ i, i = .elpm ∨ i = .elpmZ d → ∃ t, exec i s = .next t ∧ ProgLoadFailed a s t ∧ t.rampz = s.rampz ∧
        t.regs = s.regs) ∧
      (Ptr.z.isByte d = false → ∃ t, exec (.elpmZInc d) s = .next t ∧ ProgLoadFailed a s t ∧
        t.rampz.toNat * 65536 + (t.ptr .z).toNat = (a + 1) % 16777216 ∧ OutsidePtrKept .z s t))

/-- XCH, LAS, LAC and LAT: R430..R433, R95: one read of `*Z`, one write of `*Z`, then the register. What the backend holds
afterwards, that byte where it is plain memory and every other where no oracle's address is written, is the model's choice
(log 10, log 11). -/
def Obligations.ExchangesReadThenWriteAtZ : Prop :=
  Encodes 0x9204#16 0xFE0F#16 (fun op _ => .xch (d5 op)) ∧
  Encodes 0x9205#16 0xFE0F#16 (fun op _ => .las (d5 op)) ∧
  Encodes 0x9206#16 0xFE0F#16 (fun op _ => .lac (d5 op)) ∧
  Encodes 0x9207#16 0xFE0F#16 (fun op _ => .lat (d5 op)) ∧
  ∀ (d : Reg) (s : State) (z : Word) (i : Instr) (m v : Byte), z = s.reg 31 ++ s.reg 30 →
    (i = .xch d ∧ v = s.reg d) ∨ (i = .las d ∧ v = m ||| s.reg d) ∨ (i = .lac d ∧ v = m &&& ~~~(s.reg d)) ∨
      (i = .lat d ∧ v = m ^^^ s.reg d) →
    (Answers s z m → Takes (readDataMemory z s).2 z v → ∃ t, exec i s = .next t ∧
      Ran 2 [.dataRead z.toNat, .dataWrite z.toNat v] { s with regs := t.regs } t ∧
      (HoldsWrites s z → Memory.read t.data z.toNat = v) ∧ t.reg d = m ∧ OthersKept d s t) ∧
    (Answers s z m → Rejects (readDataMemory z s).2 z v → ∃ t, exec i s = .next t ∧
      FailedAfter (.addressUnwritable z.toNat v) [.dataRead z.toNat, .dataWrite z.toNat v] s t) ∧
    (Silent s z → ∃ t, exec i s = .next t ∧ LoadFailed z s t ∧ t.regs = s.regs)

/-- PUSH and POP: R434, R435, R79, R38. What the backend holds afterwards, that byte where it is plain memory and every
other where no oracle's address is written, is the model's choice (log 10, log 11). -/
def Obligations.PushAndPopMoveSp : Prop :=
  Encodes 0x920F#16 0xFE0F#16 (fun op _ => .push (d5 op)) ∧
  Encodes 0x900F#16 0xFE0F#16 (fun op _ => .pop (d5 op)) ∧
  ∀ (r : Reg) (s : State),
    (Takes s s.sp (s.reg r) → ∃ t, exec (.push r) s = .next t ∧
      StoreFrame 2 s.sp (s.reg r) { s with sp := s.sp - 1#16 } t ∧ t.regs = s.regs) ∧
    (Rejects s s.sp (s.reg r) → ∃ t, exec (.push r) s = .next t ∧ StoreFailed s.sp (s.reg r) s t ∧ t.regs = s.regs) ∧
    (∀ v, Answers s (s.sp + 1#16) v → ∃ t, exec (.pop r) s = .next t ∧
      LoadFrame 2 (s.sp + 1#16) { s with sp := s.sp + 1#16 } t ∧ t.reg r = v ∧ OthersKept r s t) ∧
    (Silent s (s.sp + 1#16) → ∃ t, exec (.pop r) s = .next t ∧
      LoadFailed (s.sp + 1#16) { s with sp := s.sp + 1#16 } t ∧ t.regs = s.regs)

/-- R438: PUSH then POP of the same register, through plain memory, restores the register and SP, in 4 cycles. Which
addresses are plain memory is data of the model (log 10). -/
def Obligations.PushThenPopRestoresRegisterAndSp : Prop :=
  ∀ (r : Reg) (s t : State), regionKind s.regions s.sp.toNat = .ram → exec (.push r) s = .next t →
    ∃ u, exec (.pop r) t = .next u ∧ u.regs = s.regs ∧ u.sp = s.sp ∧ u.sreg = s.sreg ∧ u.cycles = s.cycles + 4#64

/-- IN and OUT: R436, R437, R73: ordinary accesses of data address 0x20 + A, in 1 cycle. What the backend holds
afterwards, that byte where it is plain memory and every other where no oracle's address is written, is the model's choice
(log 10, log 11). -/
def Obligations.InAndOutAccessDataAddresses : Prop :=
  Encodes 0xB000#16 0xF800#16 (fun op _ => .inIo (d5 op) (a6 op)) ∧
  Encodes 0xB800#16 0xF800#16 (fun op _ => .outIo (a6 op) (d5 op)) ∧
  ∀ (d r : Reg) (a : BitVec 6) (addr : Word) (s : State), addr.toNat = 0x20 + a.toNat →
    LoadsPlain 1 (.inIo d a) d addr s ∧ StoresPlain 1 (.outIo a r) r addr s

/-! ## Bits and system -/

/-- BLD, BST, BSET and BCLR: R501..R504. -/
def Obligations.BitInstructionsWriteOneBit : Prop :=
  Encodes 0xF800#16 0xFE08#16 (fun op _ => .bld (d5 op) (b3 op)) ∧
  Encodes 0xFA00#16 0xFE08#16 (fun op _ => .bst (d5 op) (b3 op)) ∧
  Encodes 0x9408#16 0xFF8F#16 (fun op _ => .bset (s3 op)) ∧
  Encodes 0x9488#16 0xFF8F#16 (fun op _ => .bclr (s3 op)) ∧
  ∀ (d : Reg) (b : BitNo) (s : State),
    (∃ t, exec (.bld d b) s = .next t ∧ OnlyRegs 1 s t ∧ OthersKept d s t ∧
      ∀ k, (t.reg d).getLsbD k = if k = b.val then s.sreg.t else (s.reg d).getLsbD k) ∧
    (∃ t, exec (.bst d b) s = .next t ∧ OnlyFlags 1 s t ∧ t.sreg = { s.sreg with t := (s.reg d).getLsbD b.val }) ∧
    (∃ t, exec (.bset b) s = .next t ∧ OnlyFlags 1 s t ∧
      ∀ k, t.sreg.toByte.getLsbD k = if k = b.val then true else s.sreg.toByte.getLsbD k) ∧
    (∃ t, exec (.bclr b) s = .next t ∧ OnlyFlags 1 s t ∧
      ∀ k, t.sreg.toByte.getLsbD k = if k = b.val then false else s.sreg.toByte.getLsbD k)

/-- CBI and SBI: R505, R506: one read and one write of the byte at 0x20 + A, whose other bits are written back as read.
What the backend holds afterwards, that byte where it is plain memory and every other where no oracle's address is
written, is the model's choice (log 10, log 11). -/
def Obligations.CbiAndSbiReadThenWriteTheByte : Prop :=
  Encodes 0x9800#16 0xFF00#16 (fun op _ => .cbi (a5 op) (b3 op)) ∧
  Encodes 0x9A00#16 0xFF00#16 (fun op _ => .sbi (a5 op) (b3 op)) ∧
  ∀ (a : BitVec 5) (b : BitNo) (addr : Word) (s : State) (i : Instr) (x : Bool) (m v : Byte),
    addr.toNat = 0x20 + a.toNat → (i = .cbi a b ∧ x = false) ∨ (i = .sbi a b ∧ x = true) →
    (∀ k, v.getLsbD k = if k = b.val then x else m.getLsbD k) →
    (Answers s addr m → Takes (readDataMemory addr s).2 addr v → ∃ t, exec i s = .next t ∧
      Ran 2 [.dataRead addr.toNat, .dataWrite addr.toNat v] s t ∧
      (HoldsWrites s addr → Memory.read t.data addr.toNat = v)) ∧
    (Answers s addr m → Rejects (readDataMemory addr s).2 addr v → ∃ t, exec i s = .next t ∧
      FailedAfter (.addressUnwritable addr.toNat v) [.dataRead addr.toNat, .dataWrite addr.toNat v] s t) ∧
    (Silent s addr → ∃ t, exec i s = .next t ∧ LoadFailed addr s t ∧ t.regs = s.regs)

/-- NOP, WDR and SLEEP: R507, R512, R510. -/
def Obligations.NopWdrAndSleepTakeOneCycle : Prop :=
  Encodes 0x0000#16 0xFFFF#16 (fun _ _ => .nop) ∧
  Encodes 0x95A8#16 0xFFFF#16 (fun _ _ => .wdr) ∧
  Encodes 0x9588#16 0xFFFF#16 (fun _ _ => .sleep) ∧
  ∀ s : State,
    exec .nop s = .next { s with cycles := s.cycles + 1#64, result := .ok 1 } ∧
    exec .wdr s = .next { s with cycles := s.cycles + 1#64, result := .ok 1 } ∧
    exec .sleep s = .next { s with asleep := true, cycles := s.cycles + 1#64, result := .ok 1 }

/-- BREAK, SPM, `SPM Z+` and DES: R511, R513, R514, R515: each takes its failure, before any access, and changes nothing but
the cycle counter: one more after BREAK, open after the others (R721). -/
def Obligations.BreakSpmAndDesTakeTheirFailure : Prop :=
  Encodes 0x9598#16 0xFFFF#16 (fun _ _ => .brk) ∧
  Encodes 0x95E8#16 0xFFFF#16 (fun _ _ => .spm) ∧
  Encodes 0x95F8#16 0xFFFF#16 (fun _ _ => .spmZInc) ∧
  Encodes 0x940B#16 0xFF0F#16 (fun op _ => .des (k4 op)) ∧
  ∀ s : State,
    exec .brk s = .next { s with cycles := s.cycles + 1#64, result := .err (.breakInterrupt s.pc0) } ∧
    (∀ i, i = .spm ∨ i = .spmZInc ∨ (∃ k, i = .des k) →
      ∃ t, exec i s = .next t ∧ FailedFrom (.notImplemented s.pc0 (opWord i)) s t)
end

