-- ==== Sys2Proof/Laws/Decode.lean ====
section
/-! SUPPORT. The decoder and the encoder: no two rows of the table admit one word, so the row that admits a word is the row
decoding finds; and for each operand field, that it reads back what the encoder placed and nothing else. -/

-- One theorem at a time: each of these waits in the kernel, and many waiting at once need more threads than the check allows.
set_option Elab.async false

namespace Sys2Proof

/-! ## The table -/

/-- Two patterns that differ in a bit both of them fix admit no common word. -/
theorem no_word_of_conflict {m m' p p' op : Word} (h : op &&& m = p) (hc : (p ^^^ p') &&& m &&& m' ≠ 0#16) :
    op &&& m' ≠ p' := by
  intro h'
  apply hc
  rw [← h, ← h']
  ext i hi
  simp only [BitVec.getElem_and, BitVec.getElem_xor, BitVec.getElem_zero]
  cases op[i] <;> cases m[i] <;> cases m'[i] <;> rfl

/-- What a fixed pattern says of fewer bits. -/
theorem masked_of_masked {m m' p p' op : Word} (h : op &&& m = p) (hm : m &&& m' = m') (hp : p &&& m' = p') :
    op &&& m' = p' := by
  rw [← hp, ← h, BitVec.and_assoc, hm]

/-- The two rows fix a common bit differently. -/
def Row.conflicts (r r' : Row) : Bool := (r.pattern ^^^ r'.pattern) &&& r.mask &&& r'.mask != 0#16

/-- Every two rows of the table conflict. -/
theorem opcodeTable_pairwise : opcodeTable.Pairwise fun r r' => r.conflicts r' = true := by decide +kernel

theorem Row.admits_eq {r : Row} {op : Word} : r.admits op = true ↔ op &&& r.mask = r.pattern := by simp [Row.admits]

/-- In a list whose rows conflict pairwise, the row that admits a word is the one found. -/
theorem find_of_admits (l : List Row) (hl : l.Pairwise fun r r' => r.conflicts r' = true) {row : Row} (hm : row ∈ l)
    {op : Word} (ha : row.admits op = true) : l.find? (fun r => r.admits op) = some row := by
  induction l with
  | nil => cases hm
  | cons r l ih =>
    rw [List.pairwise_cons] at hl
    rw [List.find?_cons]
    rcases List.mem_cons.mp hm with e | hm'
    · rw [← e, ha]
    · have hc := hl.1 row hm'
      have hr : r.admits op = false := by
        cases h : r.admits op with
        | false => rfl
        | true =>
          simp only [Row.conflicts, bne_iff_ne] at hc
          exact absurd (Row.admits_eq.mp ha) (no_word_of_conflict (Row.admits_eq.mp h) hc)
      rw [hr]
      exact ih hl.2 hm'

/-- A word decodes by the row that admits it. -/
theorem decode_of_admits {row : Row} (hm : row ∈ opcodeTable) {op : Word} (ha : row.admits op = true) (op2 : Word) :
    decode op op2 = some (row.build op op2) := by
  unfold decode
  rw [find_of_admits opcodeTable opcodeTable_pairwise hm ha]
  rfl

/-! ## The length -/

/-- A row that conflicts with both long patterns holds one-word instructions only. -/
theorem isLong_false {m p op : Word} (h : op &&& m = p)
    (hc : (p ^^^ 0x9000#16) &&& m &&& 0xFC0F#16 ≠ 0#16 ∧ (p ^^^ 0x940C#16) &&& m &&& 0xFE0C#16 ≠ 0#16) :
    isLong op = false := by
  simp [isLong, no_word_of_conflict h hc.1, no_word_of_conflict h hc.2]

/-- The rows of LDS and STS are long. -/
theorem isLong_direct {m p op : Word} (h : op &&& m = p) (hm : m &&& 0xFC0F#16 = 0xFC0F#16) (hp : p &&& 0xFC0F#16 = 0x9000#16) :
    isLong op = true := by
  simp [isLong, masked_of_masked h hm hp]

/-- The rows of JMP and CALL are long. -/
theorem isLong_jump {m p op : Word} (h : op &&& m = p) (hm : m &&& 0xFE0C#16 = 0xFE0C#16) (hp : p &&& 0xFE0C#16 = 0x940C#16) :
    isLong op = true := by
  simp [isLong, masked_of_masked h hm hp]

/-! ## Placing fields in a word -/

/-- One field in a row: the word has the row's fixed bits, and the field's bits are what was placed. -/
theorem one_field {p m m1 a : Word} (hc : p &&& m = p ∧ p &&& m1 = 0#16 ∧ m1 &&& m = 0#16) (ha : a &&& m1 = a) :
    (p ||| a) &&& m = p ∧ (p ||| a) &&& m1 = a := by
  obtain ⟨h1, h2, h3⟩ := hc
  constructor
  · rw [BitVec.and_or_distrib_right, h1, ← ha, BitVec.and_assoc, h3]; simp
  · rw [BitVec.and_or_distrib_right, h2, ha]; simp

/-- Two fields in a row. -/
theorem two_fields {p m m1 m2 a b : Word}
    (hc : (p &&& m = p ∧ p &&& m1 = 0#16 ∧ m1 &&& m = 0#16) ∧ p &&& m2 = 0#16 ∧ m2 &&& m = 0#16 ∧ m1 &&& m2 = 0#16)
    (ha : a &&& m1 = a) (hb : b &&& m2 = b) :
    (p ||| a ||| b) &&& m = p ∧ (p ||| a ||| b) &&& m1 = a ∧ (p ||| a ||| b) &&& m2 = b := by
  obtain ⟨h1, h2, h3, h4⟩ := hc
  obtain ⟨e1, e2⟩ := one_field h1 ha
  have b1 : b &&& m = 0#16 := by rw [← hb, BitVec.and_assoc, h3]; simp
  have b2 : b &&& m1 = 0#16 := by rw [← hb, BitVec.and_assoc, BitVec.and_comm m2, h4]; simp
  have a2 : a &&& m2 = 0#16 := by rw [← ha, BitVec.and_assoc, h4]; simp
  refine ⟨?_, ?_, ?_⟩
  · rw [BitVec.and_or_distrib_right, e1, b1]; simp
  · rw [BitVec.and_or_distrib_right, e2, b2]; simp
  · rw [BitVec.and_or_distrib_right, BitVec.and_or_distrib_right, h2, a2, hb]; simp

/-- A run of bits is read from the bits a mask that covers it keeps. -/
theorem extract_of_masked {op m : Word} (i n : Nat) (h : m.extractLsb' i n = BitVec.allOnes n) :
    op.extractLsb' i n = (op &&& m).extractLsb' i n := by
  rw [BitVec.extractLsb'_and, h]; simp

/-! ## Each field reads back what was placed -/

theorem putD5_in : ∀ x : Reg, putD5 x &&& 0x01F0#16 = putD5 x := by decide +kernel
theorem d5_putD5 : ∀ x : Reg, d5 (putD5 x) = x := by decide +kernel
theorem d5_of {op : Word} {x : Reg} (e : op &&& 0x01F0#16 = putD5 x) : d5 op = x := by
  rw [← d5_putD5 x]
  unfold d5
  rw [extract_of_masked (m := 0x01F0#16) 4 5 (by decide), e]

theorem putR5_in : ∀ x : Reg, putR5 x &&& 0x020F#16 = putR5 x := by decide +kernel
theorem r5_putR5 : ∀ x : Reg, r5 (putR5 x) = x := by decide +kernel
theorem r5_of {op : Word} {x : Reg} (e : op &&& 0x020F#16 = putR5 x) : r5 op = x := by
  rw [← r5_putR5 x]
  unfold r5
  rw [extract_of_masked (m := 0x020F#16) 9 1 (by decide), extract_of_masked (m := 0x020F#16) 0 4 (by decide), e]

theorem putD4_in : ∀ x : Reg, putD4 x &&& 0x00F0#16 = putD4 x := by decide +kernel
theorem d4_putD4 : ∀ x : Reg, x.isShort = true → d4 (putD4 x) = x := by decide +kernel
theorem d4_of {op : Word} {x : Reg} (h : x.isShort = true) (e : op &&& 0x00F0#16 = putD4 x) : d4 op = x := by
  rw [← d4_putD4 x h]
  unfold d4
  rw [extract_of_masked (m := 0x00F0#16) 4 4 (by decide), e]

theorem putR4_in : ∀ x : Reg, putR4 x &&& 0x000F#16 = putR4 x := by decide +kernel
theorem r4_putR4 : ∀ x : Reg, x.isShort = true → r4 (putR4 x) = x := by decide +kernel
theorem r4_of {op : Word} {x : Reg} (h : x.isShort = true) (e : op &&& 0x000F#16 = putR4 x) : r4 op = x := by
  rw [← r4_putR4 x h]
  unfold r4
  rw [extract_of_masked (m := 0x000F#16) 0 4 (by decide), e]

theorem putD3_in : ∀ x : Reg, putD3 x &&& 0x0070#16 = putD3 x := by decide +kernel
theorem d3_putD3 : ∀ x : Reg, x.isTiny = true → d3 (putD3 x) = x := by decide +kernel
theorem d3_of {op : Word} {x : Reg} (h : x.isTiny = true) (e : op &&& 0x0070#16 = putD3 x) : d3 op = x := by
  rw [← d3_putD3 x h]
  unfold d3
  rw [extract_of_masked (m := 0x0070#16) 4 3 (by decide), e]

theorem putR3_in : ∀ x : Reg, putR3 x &&& 0x0007#16 = putR3 x := by decide +kernel
theorem r3_putR3 : ∀ x : Reg, x.isTiny = true → r3 (putR3 x) = x := by decide +kernel
theorem r3_of {op : Word} {x : Reg} (h : x.isTiny = true) (e : op &&& 0x0007#16 = putR3 x) : r3 op = x := by
  rw [← r3_putR3 x h]
  unfold r3
  rw [extract_of_masked (m := 0x0007#16) 0 3 (by decide), e]

theorem putDw_in : ∀ x : Reg, putDw x &&& 0x00F0#16 = putDw x := by decide +kernel
theorem dw_putDw : ∀ x : Reg, x.isEven = true → dw (putDw x) = x := by decide +kernel
theorem dw_of {op : Word} {x : Reg} (h : x.isEven = true) (e : op &&& 0x00F0#16 = putDw x) : dw op = x := by
  rw [← dw_putDw x h]
  unfold dw
  rw [extract_of_masked (m := 0x00F0#16) 4 4 (by decide), e]

theorem putRw_in : ∀ x : Reg, putRw x &&& 0x000F#16 = putRw x := by decide +kernel
theorem rw_putRw : ∀ x : Reg, x.isEven = true → rw (putRw x) = x := by decide +kernel
theorem rw_of {op : Word} {x : Reg} (h : x.isEven = true) (e : op &&& 0x000F#16 = putRw x) : rw op = x := by
  rw [← rw_putRw x h]
  unfold rw
  rw [extract_of_masked (m := 0x000F#16) 0 4 (by decide), e]

theorem putDp_in : ∀ x : Reg, putDp x &&& 0x0030#16 = putDp x := by decide +kernel
theorem dp_putDp : ∀ x : Reg, x.isPairTiny = true → dp (putDp x) = x := by decide +kernel
theorem dp_of {op : Word} {x : Reg} (h : x.isPairTiny = true) (e : op &&& 0x0030#16 = putDp x) : dp op = x := by
  rw [← dp_putDp x h]
  unfold dp
  rw [extract_of_masked (m := 0x0030#16) 4 2 (by decide), e]

theorem putK8_in : ∀ x : Byte, putK8 x &&& 0x0F0F#16 = putK8 x := by decide +kernel
theorem k8_putK8 : ∀ x : Byte, k8 (putK8 x) = x := by decide +kernel
theorem k8_of {op : Word} {x : Byte} (e : op &&& 0x0F0F#16 = putK8 x) : k8 op = x := by
  rw [← k8_putK8 x]
  unfold k8
  rw [extract_of_masked (m := 0x0F0F#16) 8 4 (by decide), extract_of_masked (m := 0x0F0F#16) 0 4 (by decide), e]

theorem putK6_in : ∀ x : BitVec 6, putK6 x &&& 0x00CF#16 = putK6 x := by decide +kernel
theorem k6_putK6 : ∀ x : BitVec 6, k6 (putK6 x) = x := by decide +kernel
theorem k6_of {op : Word} {x : BitVec 6} (e : op &&& 0x00CF#16 = putK6 x) : k6 op = x := by
  rw [← k6_putK6 x]
  unfold k6
  rw [extract_of_masked (m := 0x00CF#16) 6 2 (by decide), extract_of_masked (m := 0x00CF#16) 0 4 (by decide), e]

theorem putQ6_in : ∀ x : BitVec 6, putQ6 x &&& 0x2C07#16 = putQ6 x := by decide +kernel
theorem q6_putQ6 : ∀ x : BitVec 6, q6 (putQ6 x) = x := by decide +kernel
theorem q6_of {op : Word} {x : BitVec 6} (e : op &&& 0x2C07#16 = putQ6 x) : q6 op = x := by
  rw [← q6_putQ6 x]
  unfold q6
  rw [extract_of_masked (m := 0x2C07#16) 13 1 (by decide), extract_of_masked (m := 0x2C07#16) 10 2 (by decide), extract_of_masked (m := 0x2C07#16) 0 3 (by decide), e]

theorem putA5_in : ∀ x : BitVec 5, putA5 x &&& 0x00F8#16 = putA5 x := by decide +kernel
theorem a5_putA5 : ∀ x : BitVec 5, a5 (putA5 x) = x := by decide +kernel
theorem a5_of {op : Word} {x : BitVec 5} (e : op &&& 0x00F8#16 = putA5 x) : a5 op = x := by
  rw [← a5_putA5 x]
  unfold a5
  rw [extract_of_masked (m := 0x00F8#16) 3 5 (by decide), e]

theorem putA6_in : ∀ x : BitVec 6, putA6 x &&& 0x060F#16 = putA6 x := by decide +kernel
theorem a6_putA6 : ∀ x : BitVec 6, a6 (putA6 x) = x := by decide +kernel
theorem a6_of {op : Word} {x : BitVec 6} (e : op &&& 0x060F#16 = putA6 x) : a6 op = x := by
  rw [← a6_putA6 x]
  unfold a6
  rw [extract_of_masked (m := 0x060F#16) 9 2 (by decide), extract_of_masked (m := 0x060F#16) 0 4 (by decide), e]

theorem putK12_in : ∀ x : BitVec 12, putK12 x &&& 0x0FFF#16 = putK12 x := by decide +kernel
theorem k12_putK12 : ∀ x : BitVec 12, k12 (putK12 x) = x := by decide +kernel
theorem k12_of {op : Word} {x : BitVec 12} (e : op &&& 0x0FFF#16 = putK12 x) : k12 op = x := by
  rw [← k12_putK12 x]
  unfold k12
  rw [extract_of_masked (m := 0x0FFF#16) 0 12 (by decide), e]

theorem putK7_in : ∀ x : BitVec 7, putK7 x &&& 0x03F8#16 = putK7 x := by decide +kernel
theorem k7_putK7 : ∀ x : BitVec 7, k7 (putK7 x) = x := by decide +kernel
theorem k7_of {op : Word} {x : BitVec 7} (e : op &&& 0x03F8#16 = putK7 x) : k7 op = x := by
  rw [← k7_putK7 x]
  unfold k7
  rw [extract_of_masked (m := 0x03F8#16) 3 7 (by decide), e]

theorem putB3_in : ∀ x : BitNo, putB3 x &&& 0x0007#16 = putB3 x := by decide +kernel
theorem b3_putB3 : ∀ x : BitNo, b3 (putB3 x) = x := by decide +kernel
theorem b3_of {op : Word} {x : BitNo} (e : op &&& 0x0007#16 = putB3 x) : b3 op = x := by
  rw [← b3_putB3 x]
  unfold b3
  rw [extract_of_masked (m := 0x0007#16) 0 3 (by decide), e]

theorem putS3_in : ∀ x : BitNo, putS3 x &&& 0x0070#16 = putS3 x := by decide +kernel
theorem s3_putS3 : ∀ x : BitNo, s3 (putS3 x) = x := by decide +kernel
theorem s3_of {op : Word} {x : BitNo} (e : op &&& 0x0070#16 = putS3 x) : s3 op = x := by
  rw [← s3_putS3 x]
  unfold s3
  rw [extract_of_masked (m := 0x0070#16) 4 3 (by decide), e]

theorem putK4_in : ∀ x : BitVec 4, putK4 x &&& 0x00F0#16 = putK4 x := by decide +kernel
theorem k4_putK4 : ∀ x : BitVec 4, k4 (putK4 x) = x := by decide +kernel
theorem k4_of {op : Word} {x : BitVec 4} (e : op &&& 0x00F0#16 = putK4 x) : k4 op = x := by
  rw [← k4_putK4 x]
  unfold k4
  rw [extract_of_masked (m := 0x00F0#16) 4 4 (by decide), e]
/-- The first word's part of R118: bits 21..16 of the address. -/
def putTop (t : BitVec 6) : Word := BitVec.ofNat 16 (t.toNat / 2 * 16 + t.toNat % 2)

theorem putK22_eq (k : BitVec 22) : putK22 k = putTop (k.extractLsb' 16 6) := by
  have h : (k.extractLsb' 16 6).toNat = k.toNat / 65536 := by
    simp only [BitVec.extractLsb'_toNat, Nat.shiftRight_eq_div_pow]
    have := k.isLt
    omega
  unfold putK22 putTop
  rw [h, Nat.div_div_eq_div_mul]

theorem putTop_in : ∀ t : BitVec 6, putTop t &&& 0x01F1#16 = putTop t := by decide +kernel

theorem putK22_in (k : BitVec 22) : putK22 k &&& 0x01F1#16 = putK22 k := by
  rw [putK22_eq, putTop_in]

theorem top_putTop : ∀ t : BitVec 6, (putTop t).extractLsb' 4 5 ++ (putTop t).extractLsb' 0 1 = t := by decide +kernel

theorem k22_of {op : Word} {k : BitVec 22} (e : op &&& 0x01F1#16 = putK22 k) : k22 op (k.extractLsb' 0 16) = k := by
  unfold k22
  rw [extract_of_masked (m := 0x01F1#16) 4 5 (by decide), extract_of_masked (m := 0x01F1#16) 0 1 (by decide), e, putK22_eq,
    top_putTop]
  apply BitVec.eq_of_toNat_eq
  simp only [BitVec.toNat_append, BitVec.extractLsb'_toNat, Nat.shiftRight_zero]
  rw [← Nat.shiftLeft_add_eq_or_of_lt (Nat.mod_lt _ (by decide))]
  simp only [Nat.shiftRight_eq_div_pow, Nat.shiftLeft_eq]
  have := k.isLt
  omega

/-! ## Each field placed back is the bits it was read from -/

/-- A run of bits put back in its place is the word with the other bits cleared. -/
theorem place_extract (op : Word) (i n : Nat) :
    (op.extractLsb' i n).zeroExtend 16 <<< i = op &&& ((BitVec.allOnes n).zeroExtend 16 <<< i) := by
  ext j hj
  simp only [BitVec.getElem_shiftLeft, BitVec.getElem_and]
  by_cases h : j < i
  · simp [h]
  · have e : i + (j - i) = j := by omega
    simp [h, BitVec.getLsbD_extractLsb', Bool.and_comm]
    rw [e, BitVec.getLsbD_eq_getElem hj]

theorem putD5_d5 (op : Word) : putD5 (d5 op) = op &&& 0x01F0#16 := by
  have h : ∀ (x : BitVec 5), putD5 (Fin.ofNat 32 x.toNat) = x.zeroExtend 16 <<< 4 := by decide +kernel
  unfold d5
  rw [h]
  rw [place_extract]
  rfl

theorem putR5_r5 (op : Word) : putR5 (r5 op) = op &&& 0x020F#16 := by
  have h : ∀ (x : BitVec 1) (y : BitVec 4), putR5 (Fin.ofNat 32 (x ++ y).toNat) = x.zeroExtend 16 <<< 9 ||| y.zeroExtend 16 <<< 0 := by decide +kernel
  unfold r5
  rw [h]
  simp only [place_extract, ← BitVec.and_or_distrib_left]
  rfl

theorem putD4_d4 (op : Word) : putD4 (d4 op) = op &&& 0x00F0#16 := by
  have h : ∀ (x : BitVec 4), putD4 (Fin.ofNat 32 (16 + x.toNat)) = x.zeroExtend 16 <<< 4 := by decide +kernel
  unfold d4
  rw [h]
  rw [place_extract]
  rfl

theorem d4_isShort (op : Word) : (d4 op).isShort = true := by
  have h : ∀ (x : BitVec 4), Reg.isShort (Fin.ofNat 32 (16 + x.toNat)) = true := by decide +kernel
  exact h _

theorem putR4_r4 (op : Word) : putR4 (r4 op) = op &&& 0x000F#16 := by
  have h : ∀ (x : BitVec 4), putR4 (Fin.ofNat 32 (16 + x.toNat)) = x.zeroExtend 16 <<< 0 := by decide +kernel
  unfold r4
  rw [h]
  rw [place_extract]
  rfl

theorem r4_isShort (op : Word) : (r4 op).isShort = true := by
  have h : ∀ (x : BitVec 4), Reg.isShort (Fin.ofNat 32 (16 + x.toNat)) = true := by decide +kernel
  exact h _

theorem putD3_d3 (op : Word) : putD3 (d3 op) = op &&& 0x0070#16 := by
  have h : ∀ (x : BitVec 3), putD3 (Fin.ofNat 32 (16 + x.toNat)) = x.zeroExtend 16 <<< 4 := by decide +kernel
  unfold d3
  rw [h]
  rw [place_extract]
  rfl

theorem d3_isTiny (op : Word) : (d3 op).isTiny = true := by
  have h : ∀ (x : BitVec 3), Reg.isTiny (Fin.ofNat 32 (16 + x.toNat)) = true := by decide +kernel
  exact h _

theorem putR3_r3 (op : Word) : putR3 (r3 op) = op &&& 0x0007#16 := by
  have h : ∀ (x : BitVec 3), putR3 (Fin.ofNat 32 (16 + x.toNat)) = x.zeroExtend 16 <<< 0 := by decide +kernel
  unfold r3
  rw [h]
  rw [place_extract]
  rfl

theorem r3_isTiny (op : Word) : (r3 op).isTiny = true := by
  have h : ∀ (x : BitVec 3), Reg.isTiny (Fin.ofNat 32 (16 + x.toNat)) = true := by decide +kernel
  exact h _

theorem putDw_dw (op : Word) : putDw (dw op) = op &&& 0x00F0#16 := by
  have h : ∀ (x : BitVec 4), putDw (Fin.ofNat 32 (2 * x.toNat)) = x.zeroExtend 16 <<< 4 := by decide +kernel
  unfold dw
  rw [h]
  rw [place_extract]
  rfl

theorem dw_isEven (op : Word) : (dw op).isEven = true := by
  have h : ∀ (x : BitVec 4), Reg.isEven (Fin.ofNat 32 (2 * x.toNat)) = true := by decide +kernel
  exact h _

theorem putRw_rw (op : Word) : putRw (rw op) = op &&& 0x000F#16 := by
  have h : ∀ (x : BitVec 4), putRw (Fin.ofNat 32 (2 * x.toNat)) = x.zeroExtend 16 <<< 0 := by decide +kernel
  unfold rw
  rw [h]
  rw [place_extract]
  rfl

theorem rw_isEven (op : Word) : (rw op).isEven = true := by
  have h : ∀ (x : BitVec 4), Reg.isEven (Fin.ofNat 32 (2 * x.toNat)) = true := by decide +kernel
  exact h _

theorem putDp_dp (op : Word) : putDp (dp op) = op &&& 0x0030#16 := by
  have h : ∀ (x : BitVec 2), putDp (Fin.ofNat 32 (24 + 2 * x.toNat)) = x.zeroExtend 16 <<< 4 := by decide +kernel
  unfold dp
  rw [h]
  rw [place_extract]
  rfl

theorem dp_isPairTiny (op : Word) : (dp op).isPairTiny = true := by
  have h : ∀ (x : BitVec 2), Reg.isPairTiny (Fin.ofNat 32 (24 + 2 * x.toNat)) = true := by decide +kernel
  exact h _

theorem putK8_k8 (op : Word) : putK8 (k8 op) = op &&& 0x0F0F#16 := by
  have h : ∀ (x : BitVec 4) (y : BitVec 4), putK8 (x ++ y) = x.zeroExtend 16 <<< 8 ||| y.zeroExtend 16 <<< 0 := by decide +kernel
  unfold k8
  rw [h]
  simp only [place_extract, ← BitVec.and_or_distrib_left]
  rfl

theorem putK6_k6 (op : Word) : putK6 (k6 op) = op &&& 0x00CF#16 := by
  have h : ∀ (x : BitVec 2) (y : BitVec 4), putK6 (x ++ y) = x.zeroExtend 16 <<< 6 ||| y.zeroExtend 16 <<< 0 := by decide +kernel
  unfold k6
  rw [h]
  simp only [place_extract, ← BitVec.and_or_distrib_left]
  rfl

theorem putQ6_q6 (op : Word) : putQ6 (q6 op) = op &&& 0x2C07#16 := by
  have h : ∀ (x : BitVec 1) (y : BitVec 2) (z : BitVec 3), putQ6 (x ++ y ++ z) = x.zeroExtend 16 <<< 13 ||| y.zeroExtend 16 <<< 10 ||| z.zeroExtend 16 <<< 0 := by decide +kernel
  unfold q6
  rw [h]
  simp only [place_extract, ← BitVec.and_or_distrib_left]
  rfl

theorem putA5_a5 (op : Word) : putA5 (a5 op) = op &&& 0x00F8#16 := by
  have h : ∀ (x : BitVec 5), putA5 (x) = x.zeroExtend 16 <<< 3 := by decide +kernel
  unfold a5
  rw [h]
  rw [place_extract]
  rfl

theorem putA6_a6 (op : Word) : putA6 (a6 op) = op &&& 0x060F#16 := by
  have h : ∀ (x : BitVec 2) (y : BitVec 4), putA6 (x ++ y) = x.zeroExtend 16 <<< 9 ||| y.zeroExtend 16 <<< 0 := by decide +kernel
  unfold a6
  rw [h]
  simp only [place_extract, ← BitVec.and_or_distrib_left]
  rfl

theorem putK12_k12 (op : Word) : putK12 (k12 op) = op &&& 0x0FFF#16 := by
  have h : ∀ (x : BitVec 12), putK12 (x) = x.zeroExtend 16 <<< 0 := by decide +kernel
  unfold k12
  rw [h]
  rw [place_extract]
  rfl

theorem putK7_k7 (op : Word) : putK7 (k7 op) = op &&& 0x03F8#16 := by
  have h : ∀ (x : BitVec 7), putK7 (x) = x.zeroExtend 16 <<< 3 := by decide +kernel
  unfold k7
  rw [h]
  rw [place_extract]
  rfl

theorem putB3_b3 (op : Word) : putB3 (b3 op) = op &&& 0x0007#16 := by
  have h : ∀ (x : BitVec 3), putB3 (Fin.ofNat 8 x.toNat) = x.zeroExtend 16 <<< 0 := by decide +kernel
  unfold b3
  rw [h]
  rw [place_extract]
  rfl

theorem putS3_s3 (op : Word) : putS3 (s3 op) = op &&& 0x0070#16 := by
  have h : ∀ (x : BitVec 3), putS3 (Fin.ofNat 8 x.toNat) = x.zeroExtend 16 <<< 4 := by decide +kernel
  unfold s3
  rw [h]
  rw [place_extract]
  rfl

theorem putK4_k4 (op : Word) : putK4 (k4 op) = op &&& 0x00F0#16 := by
  have h : ∀ (x : BitVec 4), putK4 (x) = x.zeroExtend 16 <<< 4 := by decide +kernel
  unfold k4
  rw [h]
  rw [place_extract]
  rfl

theorem high_append {n m : Nat} (a : BitVec n) (b : BitVec m) : (a ++ b).extractLsb' m n = a := by
  ext j hj
  rw [BitVec.getElem_extractLsb', BitVec.getLsbD_append, if_neg (by omega), Nat.add_sub_cancel_left,
    BitVec.getLsbD_eq_getElem hj]

theorem low_append {n m : Nat} (a : BitVec n) (b : BitVec m) : (a ++ b).extractLsb' 0 m = b := by
  ext j hj
  rw [BitVec.getElem_extractLsb', BitVec.getLsbD_append, if_pos (by omega), Nat.zero_add, BitVec.getLsbD_eq_getElem hj]

theorem putK22_k22 (op op2 : Word) : putK22 (k22 op op2) = op &&& 0x01F1#16 := by
  have h : ∀ (x : BitVec 5) (y : BitVec 1), putTop (x ++ y) = x.zeroExtend 16 <<< 4 ||| y.zeroExtend 16 <<< 0 := by
    decide +kernel
  have e : (k22 op op2).extractLsb' 16 6 = op.extractLsb' 4 5 ++ op.extractLsb' 0 1 := high_append _ op2
  rw [putK22_eq, e, h]
  simp only [place_extract, ← BitVec.and_or_distrib_left]
  rfl

theorem low_k22 (op op2 : Word) : (k22 op op2).extractLsb' 0 16 = op2 := low_append _ op2

end Sys2Proof
end

