-- ==== Sys2Proof/Laws/Flags.lean ====
section
/-! SUPPORT. The flags each flag computation leaves alone, in the form of R43's table; and that SREG and its byte are one
store. -/

namespace Sys2Proof.Machine

variable {f : Sreg} {k : BitNo}

theorem addFlags_kept {rd rr res : Byte} (h : ¬decide (k.val ≤ 5) = true) : (addFlags rd rr res f).bit k = f.bit k := by
  fin_cases k <;> first | rfl | exact absurd rfl h

theorem subFlags_kept {rd rr res : Byte} (h : ¬decide (k.val ≤ 5) = true) : (subFlags rd rr res f).bit k = f.bit k := by
  fin_cases k <;> first | rfl | exact absurd rfl h

theorem sbcFlags_kept {st : Bool} {rd rr res : Byte} (h : ¬decide (k.val ≤ 5) = true) :
    (sbcFlags st rd rr res f).bit k = f.bit k := by
  fin_cases k <;> first | rfl | exact absurd rfl h

theorem nzs_kept {res : Byte} {v : Bool} (h : ¬(decide (1 ≤ k.val) && decide (k.val ≤ 4)) = true) :
    (nzs res v f).bit k = f.bit k := by
  fin_cases k <;> first | rfl | exact absurd rfl h

theorem comFlags_kept {res : Byte} (h : ¬decide (k.val ≤ 4) = true) : (comFlags res f).bit k = f.bit k := by
  fin_cases k <;> first | rfl | exact absurd rfl h

theorem shiftFlags_kept {rd res : Byte} (h : ¬decide (k.val ≤ 4) = true) : (shiftFlags rd res f).bit k = f.bit k := by
  fin_cases k <;> first | rfl | exact absurd rfl h

theorem adiwFlags_kept {b : Bool} {res : Word} (h : ¬decide (k.val ≤ 4) = true) : (adiwFlags b res f).bit k = f.bit k := by
  fin_cases k <;> first | rfl | exact absurd rfl h

theorem sbiwFlags_kept {b : Bool} {res : Word} (h : ¬decide (k.val ≤ 4) = true) : (sbiwFlags b res f).bit k = f.bit k := by
  fin_cases k <;> first | rfl | exact absurd rfl h

theorem mulFlags_kept {p w : Word} (h : ¬decide (k.val ≤ 1) = true) : (mulFlags p w f).bit k = f.bit k := by
  fin_cases k <;> first | rfl | exact absurd rfl h

/-- The one flag written. -/
@[simp] theorem bit_setBit_self (f : Sreg) (k : BitNo) (b : Bool) : (f.setBit k b).bit k = b := by fin_cases k <;> rfl

/-- The flags not written. -/
theorem bit_setBit_of_ne {j : BitNo} (f : Sreg) (h : j ≠ k) (b : Bool) : (f.setBit k b).bit j = f.bit j := by
  fin_cases k <;> fin_cases j <;> first | rfl | exact absurd rfl h

theorem setBit_kept {b : BitNo} {x : Bool} (h : ¬(k == b) = true) : (f.setBit b x).bit k = f.bit k :=
  bit_setBit_of_ne f (fun e => h (by simp [e])) x

theorem setT_kept {x : Bool} (h : ¬(k == 6) = true) : ({ f with t := x } : Sreg).bit k = f.bit k := by
  fin_cases k <;> first | rfl | exact absurd rfl h

end Sys2Proof.Machine
end

