-- ==== Sys2Proof/Laws/Memory.lean ====
section
/-! SUPPORT. The laws of the backend's memories: a read after a write of the same address gives the value written, a write
leaves every other address alone, and every operation keeps the canonical form. -/

namespace Sys2Proof.Machine

namespace Cells

variable {α : Type}

@[simp] theorem lookup_insert_self (m : List (Nat × α)) (a : Nat) (v : α) : lookup (insert m a v) a = some v := by
  induction m with
  | nil => simp [insert, lookup]
  | cons c m ih =>
    obtain ⟨b, w⟩ := c
    simp only [insert]
    split
    · simp [lookup]
    · split
      · simp [lookup]
      · next h => simp [lookup, h, ih]

theorem lookup_insert_of_ne (m : List (Nat × α)) {a b : Nat} (h : b ≠ a) (v : α) :
    lookup (insert m a v) b = lookup m b := by
  induction m with
  | nil => simp [insert, lookup, h]
  | cons c m ih =>
    obtain ⟨e, w⟩ := c
    simp only [insert]
    split
    · simp [lookup, h]
    · split
      · next h2 => subst h2; simp [lookup, h]
      · simp [lookup, ih]

@[simp] theorem lookup_erase_self (m : List (Nat × α)) (a : Nat) : lookup (erase m a) a = none := by
  induction m with
  | nil => rfl
  | cons c m ih =>
    obtain ⟨b, w⟩ := c
    simp only [erase]
    split
    · exact ih
    · next h => simp [lookup, h, ih]

theorem lookup_erase_of_ne (m : List (Nat × α)) {a b : Nat} (h : b ≠ a) : lookup (erase m a) b = lookup m b := by
  induction m with
  | nil => rfl
  | cons c m ih =>
    obtain ⟨e, w⟩ := c
    simp only [erase]
    split
    · next h2 => subst h2; simp [lookup, h, ih]
    · simp [lookup, ih]

/-- A list that starts higher also starts lower. -/
theorem risingFrom_mono {lo hi : Nat} (h : lo ≤ hi) (m : List (Nat × α)) (hm : risingFrom hi m = true) :
    risingFrom lo m = true := by
  cases m with
  | nil => rfl
  | cons c m =>
    simp only [risingFrom, Bool.and_eq_true, decide_eq_true_eq] at hm ⊢
    exact ⟨by omega, hm.2⟩

theorem risingFrom_insert {lo a : Nat} (h : lo ≤ a) (m : List (Nat × α)) (v : α) (hm : risingFrom lo m = true) :
    risingFrom lo (insert m a v) = true := by
  induction m generalizing lo with
  | nil => simp [insert, risingFrom, h]
  | cons c m ih =>
    obtain ⟨b, w⟩ := c
    simp only [risingFrom, Bool.and_eq_true, decide_eq_true_eq] at hm
    simp only [insert]
    split
    · simp only [risingFrom, Bool.and_eq_true, decide_eq_true_eq]
      exact ⟨h, by omega, hm.2⟩
    · split
      · next h2 => subst h2; simp [risingFrom, h, hm.2]
      · simp only [risingFrom, Bool.and_eq_true, decide_eq_true_eq]
        exact ⟨hm.1, ih (by omega) hm.2⟩

theorem risingFrom_erase {lo : Nat} (m : List (Nat × α)) (a : Nat) (hm : risingFrom lo m = true) :
    risingFrom lo (erase m a) = true := by
  induction m generalizing lo with
  | nil => rfl
  | cons c m ih =>
    obtain ⟨b, w⟩ := c
    simp only [risingFrom, Bool.and_eq_true, decide_eq_true_eq] at hm
    simp only [erase]
    split
    · exact ih (risingFrom_mono (by omega) m hm.2)
    · simp only [risingFrom, Bool.and_eq_true, decide_eq_true_eq]
      exact ⟨hm.1, ih hm.2⟩

/-- What holds of every cell and of the new one holds of every cell after an insertion. -/
theorem all_insert (f : Nat × α → Bool) (m : List (Nat × α)) {a : Nat} {v : α} (hm : m.all f = true) (h : f (a, v) = true) :
    (insert m a v).all f = true := by
  induction m with
  | nil => simp [insert, h]
  | cons c m ih =>
    simp only [List.all_cons, Bool.and_eq_true] at hm
    simp only [insert]
    split
    · simp [h, hm.1, hm.2]
    · split
      · simp [h, hm.2]
      · simp [hm.1, ih hm.2]

theorem all_erase (f : Nat × α → Bool) (m : List (Nat × α)) (a : Nat) (hm : m.all f = true) : (erase m a).all f = true := by
  induction m with
  | nil => rfl
  | cons c m ih =>
    simp only [List.all_cons, Bool.and_eq_true] at hm
    simp only [erase]
    split
    · exact ih hm.2
    · simp [hm.1, ih hm.2]

end Cells

namespace Memory

/-- A read after a write of the same address gives the value written. -/
@[simp] theorem read_write_self (m : Memory) (a : Nat) (v : Byte) : read (write m a v) a = v := by
  simp only [read, write]
  split
  · next h => simp [h]
  · simp

/-- A write leaves every other address alone. -/
theorem read_write_of_ne (m : Memory) {a b : Nat} (h : b ≠ a) (v : Byte) : read (write m a v) b = read m b := by
  simp only [read, write]
  split
  · rw [Cells.lookup_erase_of_ne m h]
  · rw [Cells.lookup_insert_of_ne m h]

theorem read_write (m : Memory) (a b : Nat) (v : Byte) : read (write m a v) b = if b = a then v else read m b := by
  split
  · next h => rw [h, read_write_self]
  · next h => exact read_write_of_ne m h v

/-- A write keeps the canonical form. -/
theorem wf_write (m : Memory) {a : Nat} (v : Byte) (ha : a < dataSpace) (hm : wf m = true) : wf (write m a v) = true := by
  simp only [wf, Bool.and_eq_true] at hm ⊢
  obtain ⟨⟨h1, h2⟩, h3⟩ := hm
  simp only [write]
  split
  · exact ⟨⟨Cells.risingFrom_erase m a h1, Cells.all_erase _ m a h2⟩, Cells.all_erase _ m a h3⟩
  · next h =>
    exact ⟨⟨Cells.risingFrom_insert (Nat.zero_le a) m v h1, Cells.all_insert _ m h2 (by simpa using ha)⟩,
      Cells.all_insert _ m h3 (by simpa using h)⟩

/-- A memory made of a list of bytes is in canonical form. -/
theorem wf_ofBytes (l : List (Word × Byte)) : wf (ofBytes l) = true := by
  induction l with
  | nil => rfl
  | cons c l ih => exact wf_write _ _ c.1.isLt ih

end Memory

namespace Program

@[simp] theorem word_setWord_self (p : Program) (wa : Nat) (w : Word) : word (setWord p wa w) wa = some w :=
  Cells.lookup_insert_self p wa w

theorem word_setWord_of_ne (p : Program) {wa wb : Nat} (h : wb ≠ wa) (w : Word) : word (setWord p wa w) wb = word p wb :=
  Cells.lookup_insert_of_ne p h w

@[simp] theorem word_removeWord_self (p : Program) (wa : Nat) : word (removeWord p wa) wa = none :=
  Cells.lookup_erase_self p wa

theorem word_removeWord_of_ne (p : Program) {wa wb : Nat} (h : wb ≠ wa) : word (removeWord p wa) wb = word p wb :=
  Cells.lookup_erase_of_ne p h

theorem wf_setWord (p : Program) {wa : Nat} (w : Word) (ha : wa < programSpace) (hp : wf p = true) :
    wf (setWord p wa w) = true := by
  simp only [wf, Bool.and_eq_true] at hp ⊢
  exact ⟨Cells.risingFrom_insert (Nat.zero_le wa) p w hp.1, Cells.all_insert _ p hp.2 (by simpa using ha)⟩

theorem wf_removeWord (p : Program) (wa : Nat) (hp : wf p = true) : wf (removeWord p wa) = true := by
  simp only [wf, Bool.and_eq_true] at hp ⊢
  exact ⟨Cells.risingFrom_erase p wa hp.1, Cells.all_erase _ p wa hp.2⟩

/-- A program memory made of a list of words is in canonical form. -/
theorem wf_ofWords (l : List (BitVec 32 × Word)) : wf (ofWords l) = true := by
  induction l with
  | nil => rfl
  | cons c l ih => exact wf_setWord _ _ c.1.isLt ih

end Program

end Sys2Proof.Machine
end

