-- ==== Sys2Proof/Laws/State.lean ====
section
/-! SUPPORT. Every field of State after every update of Machine/Ops.lean, so that no later proof unfolds a record update;
what a register reads after a register write; and that a pc write is in range. -/

namespace Sys2Proof.Machine

/-- A word is its two bytes. -/
@[simp] theorem joinBytes_hi_lo (w : Word) : joinBytes (hiByte w) (loByte w) = w := by
  simp only [joinBytes, hiByte, loByte]
  ext i hi
  simp only [BitVec.getElem_append, BitVec.getElem_extractLsb']
  split
  · simp [BitVec.getLsbD_eq_getElem hi]
  · next h =>
    have e : 8 + (i - 8) = i := by omega
    rw [e, BitVec.getLsbD_eq_getElem hi]

@[simp] theorem hiByte_join (h l : Byte) : hiByte (joinBytes h l) = h := by
  ext i hi
  simp only [hiByte, joinBytes, BitVec.getElem_extractLsb']
  exact (BitVec.getLsbD_append (x := h) (y := l)).trans (by simp [BitVec.getLsbD_eq_getElem hi])

@[simp] theorem loByte_join (h l : Byte) : loByte (joinBytes h l) = l := by
  ext i hi
  simp only [loByte, joinBytes, BitVec.getElem_extractLsb']
  exact (BitVec.getLsbD_append (x := h) (y := l)).trans (by simp [hi])

end Sys2Proof.Machine

namespace Sys2Proof.Machine.State

variable (s : State)

/-! ### `setReg` -/

@[simp] theorem setReg_params (i : Reg) (v : Byte) : (s.setReg i v).params = s.params := rfl
@[simp] theorem setReg_regs (i : Reg) (v : Byte) : (s.setReg i v).regs = s.regs.set i v := rfl
@[simp] theorem setReg_pc (i : Reg) (v : Byte) : (s.setReg i v).pc = s.pc := rfl
@[simp] theorem setReg_sp (i : Reg) (v : Byte) : (s.setReg i v).sp = s.sp := rfl
@[simp] theorem setReg_sreg (i : Reg) (v : Byte) : (s.setReg i v).sreg = s.sreg := rfl
@[simp] theorem setReg_eind (i : Reg) (v : Byte) : (s.setReg i v).eind = s.eind := rfl
@[simp] theorem setReg_rampx (i : Reg) (v : Byte) : (s.setReg i v).rampx = s.rampx := rfl
@[simp] theorem setReg_rampy (i : Reg) (v : Byte) : (s.setReg i v).rampy = s.rampy := rfl
@[simp] theorem setReg_rampz (i : Reg) (v : Byte) : (s.setReg i v).rampz = s.rampz := rfl
@[simp] theorem setReg_cycles (i : Reg) (v : Byte) : (s.setReg i v).cycles = s.cycles := rfl
@[simp] theorem setReg_asleep (i : Reg) (v : Byte) : (s.setReg i v).asleep = s.asleep := rfl
@[simp] theorem setReg_policy (i : Reg) (v : Byte) : (s.setReg i v).policy = s.policy := rfl
@[simp] theorem setReg_prog (i : Reg) (v : Byte) : (s.setReg i v).prog = s.prog := rfl
@[simp] theorem setReg_data (i : Reg) (v : Byte) : (s.setReg i v).data = s.data := rfl
@[simp] theorem setReg_regions (i : Reg) (v : Byte) : (s.setReg i v).regions = s.regions := rfl
@[simp] theorem setReg_progRegions (i : Reg) (v : Byte) : (s.setReg i v).progRegions = s.progRegions := rfl
@[simp] theorem setReg_draws (i : Reg) (v : Byte) : (s.setReg i v).draws = s.draws := rfl
@[simp] theorem setReg_accesses (i : Reg) (v : Byte) : (s.setReg i v).accesses = s.accesses := rfl
@[simp] theorem setReg_result (i : Reg) (v : Byte) : (s.setReg i v).result = s.result := rfl

/-! ### `setPair` -/

@[simp] theorem setPair_params (d : Reg) (w : Word) : (s.setPair d w).params = s.params := rfl
@[simp] theorem setPair_pc (d : Reg) (w : Word) : (s.setPair d w).pc = s.pc := rfl
@[simp] theorem setPair_sp (d : Reg) (w : Word) : (s.setPair d w).sp = s.sp := rfl
@[simp] theorem setPair_sreg (d : Reg) (w : Word) : (s.setPair d w).sreg = s.sreg := rfl
@[simp] theorem setPair_eind (d : Reg) (w : Word) : (s.setPair d w).eind = s.eind := rfl
@[simp] theorem setPair_rampx (d : Reg) (w : Word) : (s.setPair d w).rampx = s.rampx := rfl
@[simp] theorem setPair_rampy (d : Reg) (w : Word) : (s.setPair d w).rampy = s.rampy := rfl
@[simp] theorem setPair_rampz (d : Reg) (w : Word) : (s.setPair d w).rampz = s.rampz := rfl
@[simp] theorem setPair_cycles (d : Reg) (w : Word) : (s.setPair d w).cycles = s.cycles := rfl
@[simp] theorem setPair_asleep (d : Reg) (w : Word) : (s.setPair d w).asleep = s.asleep := rfl
@[simp] theorem setPair_policy (d : Reg) (w : Word) : (s.setPair d w).policy = s.policy := rfl
@[simp] theorem setPair_prog (d : Reg) (w : Word) : (s.setPair d w).prog = s.prog := rfl
@[simp] theorem setPair_data (d : Reg) (w : Word) : (s.setPair d w).data = s.data := rfl
@[simp] theorem setPair_regions (d : Reg) (w : Word) : (s.setPair d w).regions = s.regions := rfl
@[simp] theorem setPair_progRegions (d : Reg) (w : Word) : (s.setPair d w).progRegions = s.progRegions := rfl
@[simp] theorem setPair_draws (d : Reg) (w : Word) : (s.setPair d w).draws = s.draws := rfl
@[simp] theorem setPair_accesses (d : Reg) (w : Word) : (s.setPair d w).accesses = s.accesses := rfl
@[simp] theorem setPair_result (d : Reg) (w : Word) : (s.setPair d w).result = s.result := rfl

/-! ### `setPtr` -/

@[simp] theorem setPtr_params (p : Ptr) (w : Word) : (s.setPtr p w).params = s.params := rfl
@[simp] theorem setPtr_pc (p : Ptr) (w : Word) : (s.setPtr p w).pc = s.pc := rfl
@[simp] theorem setPtr_sp (p : Ptr) (w : Word) : (s.setPtr p w).sp = s.sp := rfl
@[simp] theorem setPtr_sreg (p : Ptr) (w : Word) : (s.setPtr p w).sreg = s.sreg := rfl
@[simp] theorem setPtr_eind (p : Ptr) (w : Word) : (s.setPtr p w).eind = s.eind := rfl
@[simp] theorem setPtr_rampx (p : Ptr) (w : Word) : (s.setPtr p w).rampx = s.rampx := rfl
@[simp] theorem setPtr_rampy (p : Ptr) (w : Word) : (s.setPtr p w).rampy = s.rampy := rfl
@[simp] theorem setPtr_rampz (p : Ptr) (w : Word) : (s.setPtr p w).rampz = s.rampz := rfl
@[simp] theorem setPtr_cycles (p : Ptr) (w : Word) : (s.setPtr p w).cycles = s.cycles := rfl
@[simp] theorem setPtr_asleep (p : Ptr) (w : Word) : (s.setPtr p w).asleep = s.asleep := rfl
@[simp] theorem setPtr_policy (p : Ptr) (w : Word) : (s.setPtr p w).policy = s.policy := rfl
@[simp] theorem setPtr_prog (p : Ptr) (w : Word) : (s.setPtr p w).prog = s.prog := rfl
@[simp] theorem setPtr_data (p : Ptr) (w : Word) : (s.setPtr p w).data = s.data := rfl
@[simp] theorem setPtr_regions (p : Ptr) (w : Word) : (s.setPtr p w).regions = s.regions := rfl
@[simp] theorem setPtr_progRegions (p : Ptr) (w : Word) : (s.setPtr p w).progRegions = s.progRegions := rfl
@[simp] theorem setPtr_draws (p : Ptr) (w : Word) : (s.setPtr p w).draws = s.draws := rfl
@[simp] theorem setPtr_accesses (p : Ptr) (w : Word) : (s.setPtr p w).accesses = s.accesses := rfl
@[simp] theorem setPtr_result (p : Ptr) (w : Word) : (s.setPtr p w).result = s.result := rfl

/-! ### `setRampzZ` -/

@[simp] theorem setRampzZ_params (a : BitVec 24) : (s.setRampzZ a).params = s.params := rfl
@[simp] theorem setRampzZ_pc (a : BitVec 24) : (s.setRampzZ a).pc = s.pc := rfl
@[simp] theorem setRampzZ_sp (a : BitVec 24) : (s.setRampzZ a).sp = s.sp := rfl
@[simp] theorem setRampzZ_sreg (a : BitVec 24) : (s.setRampzZ a).sreg = s.sreg := rfl
@[simp] theorem setRampzZ_eind (a : BitVec 24) : (s.setRampzZ a).eind = s.eind := rfl
@[simp] theorem setRampzZ_rampx (a : BitVec 24) : (s.setRampzZ a).rampx = s.rampx := rfl
@[simp] theorem setRampzZ_rampy (a : BitVec 24) : (s.setRampzZ a).rampy = s.rampy := rfl
@[simp] theorem setRampzZ_rampz (a : BitVec 24) : (s.setRampzZ a).rampz = a.extractLsb' 16 8 := rfl
@[simp] theorem setRampzZ_cycles (a : BitVec 24) : (s.setRampzZ a).cycles = s.cycles := rfl
@[simp] theorem setRampzZ_asleep (a : BitVec 24) : (s.setRampzZ a).asleep = s.asleep := rfl
@[simp] theorem setRampzZ_policy (a : BitVec 24) : (s.setRampzZ a).policy = s.policy := rfl
@[simp] theorem setRampzZ_prog (a : BitVec 24) : (s.setRampzZ a).prog = s.prog := rfl
@[simp] theorem setRampzZ_data (a : BitVec 24) : (s.setRampzZ a).data = s.data := rfl
@[simp] theorem setRampzZ_regions (a : BitVec 24) : (s.setRampzZ a).regions = s.regions := rfl
@[simp] theorem setRampzZ_progRegions (a : BitVec 24) : (s.setRampzZ a).progRegions = s.progRegions := rfl
@[simp] theorem setRampzZ_draws (a : BitVec 24) : (s.setRampzZ a).draws = s.draws := rfl
@[simp] theorem setRampzZ_accesses (a : BitVec 24) : (s.setRampzZ a).accesses = s.accesses := rfl
@[simp] theorem setRampzZ_result (a : BitVec 24) : (s.setRampzZ a).result = s.result := rfl

/-! ### `setSreg` -/

@[simp] theorem setSreg_params (f : Sreg) : (s.setSreg f).params = s.params := rfl
@[simp] theorem setSreg_regs (f : Sreg) : (s.setSreg f).regs = s.regs := rfl
@[simp] theorem setSreg_pc (f : Sreg) : (s.setSreg f).pc = s.pc := rfl
@[simp] theorem setSreg_sp (f : Sreg) : (s.setSreg f).sp = s.sp := rfl
@[simp] theorem setSreg_sreg (f : Sreg) : (s.setSreg f).sreg = f := rfl
@[simp] theorem setSreg_eind (f : Sreg) : (s.setSreg f).eind = s.eind := rfl
@[simp] theorem setSreg_rampx (f : Sreg) : (s.setSreg f).rampx = s.rampx := rfl
@[simp] theorem setSreg_rampy (f : Sreg) : (s.setSreg f).rampy = s.rampy := rfl
@[simp] theorem setSreg_rampz (f : Sreg) : (s.setSreg f).rampz = s.rampz := rfl
@[simp] theorem setSreg_cycles (f : Sreg) : (s.setSreg f).cycles = s.cycles := rfl
@[simp] theorem setSreg_asleep (f : Sreg) : (s.setSreg f).asleep = s.asleep := rfl
@[simp] theorem setSreg_policy (f : Sreg) : (s.setSreg f).policy = s.policy := rfl
@[simp] theorem setSreg_prog (f : Sreg) : (s.setSreg f).prog = s.prog := rfl
@[simp] theorem setSreg_data (f : Sreg) : (s.setSreg f).data = s.data := rfl
@[simp] theorem setSreg_regions (f : Sreg) : (s.setSreg f).regions = s.regions := rfl
@[simp] theorem setSreg_progRegions (f : Sreg) : (s.setSreg f).progRegions = s.progRegions := rfl
@[simp] theorem setSreg_draws (f : Sreg) : (s.setSreg f).draws = s.draws := rfl
@[simp] theorem setSreg_accesses (f : Sreg) : (s.setSreg f).accesses = s.accesses := rfl
@[simp] theorem setSreg_result (f : Sreg) : (s.setSreg f).result = s.result := rfl

/-! ### `setPc` -/

@[simp] theorem setPc_params (v : PcWord) : (s.setPc v).params = s.params := rfl
@[simp] theorem setPc_regs (v : PcWord) : (s.setPc v).regs = s.regs := rfl
@[simp] theorem setPc_pc (v : PcWord) : (s.setPc v).pc = maskPc s.params.pcWidth v := rfl
@[simp] theorem setPc_sp (v : PcWord) : (s.setPc v).sp = s.sp := rfl
@[simp] theorem setPc_sreg (v : PcWord) : (s.setPc v).sreg = s.sreg := rfl
@[simp] theorem setPc_eind (v : PcWord) : (s.setPc v).eind = s.eind := rfl
@[simp] theorem setPc_rampx (v : PcWord) : (s.setPc v).rampx = s.rampx := rfl
@[simp] theorem setPc_rampy (v : PcWord) : (s.setPc v).rampy = s.rampy := rfl
@[simp] theorem setPc_rampz (v : PcWord) : (s.setPc v).rampz = s.rampz := rfl
@[simp] theorem setPc_cycles (v : PcWord) : (s.setPc v).cycles = s.cycles := rfl
@[simp] theorem setPc_asleep (v : PcWord) : (s.setPc v).asleep = s.asleep := rfl
@[simp] theorem setPc_policy (v : PcWord) : (s.setPc v).policy = s.policy := rfl
@[simp] theorem setPc_prog (v : PcWord) : (s.setPc v).prog = s.prog := rfl
@[simp] theorem setPc_data (v : PcWord) : (s.setPc v).data = s.data := rfl
@[simp] theorem setPc_regions (v : PcWord) : (s.setPc v).regions = s.regions := rfl
@[simp] theorem setPc_progRegions (v : PcWord) : (s.setPc v).progRegions = s.progRegions := rfl
@[simp] theorem setPc_draws (v : PcWord) : (s.setPc v).draws = s.draws := rfl
@[simp] theorem setPc_accesses (v : PcWord) : (s.setPc v).accesses = s.accesses := rfl
@[simp] theorem setPc_result (v : PcWord) : (s.setPc v).result = s.result := rfl

/-! ### `setSp` -/

@[simp] theorem setSp_params (v : Word) : (s.setSp v).params = s.params := rfl
@[simp] theorem setSp_regs (v : Word) : (s.setSp v).regs = s.regs := rfl
@[simp] theorem setSp_pc (v : Word) : (s.setSp v).pc = s.pc := rfl
@[simp] theorem setSp_sp (v : Word) : (s.setSp v).sp = v := rfl
@[simp] theorem setSp_sreg (v : Word) : (s.setSp v).sreg = s.sreg := rfl
@[simp] theorem setSp_eind (v : Word) : (s.setSp v).eind = s.eind := rfl
@[simp] theorem setSp_rampx (v : Word) : (s.setSp v).rampx = s.rampx := rfl
@[simp] theorem setSp_rampy (v : Word) : (s.setSp v).rampy = s.rampy := rfl
@[simp] theorem setSp_rampz (v : Word) : (s.setSp v).rampz = s.rampz := rfl
@[simp] theorem setSp_cycles (v : Word) : (s.setSp v).cycles = s.cycles := rfl
@[simp] theorem setSp_asleep (v : Word) : (s.setSp v).asleep = s.asleep := rfl
@[simp] theorem setSp_policy (v : Word) : (s.setSp v).policy = s.policy := rfl
@[simp] theorem setSp_prog (v : Word) : (s.setSp v).prog = s.prog := rfl
@[simp] theorem setSp_data (v : Word) : (s.setSp v).data = s.data := rfl
@[simp] theorem setSp_regions (v : Word) : (s.setSp v).regions = s.regions := rfl
@[simp] theorem setSp_progRegions (v : Word) : (s.setSp v).progRegions = s.progRegions := rfl
@[simp] theorem setSp_draws (v : Word) : (s.setSp v).draws = s.draws := rfl
@[simp] theorem setSp_accesses (v : Word) : (s.setSp v).accesses = s.accesses := rfl
@[simp] theorem setSp_result (v : Word) : (s.setSp v).result = s.result := rfl

/-! ### `called` -/

@[simp] theorem called_params (x : BusAccess) : (s.called x).params = s.params := rfl
@[simp] theorem called_regs (x : BusAccess) : (s.called x).regs = s.regs := rfl
@[simp] theorem called_pc (x : BusAccess) : (s.called x).pc = s.pc := rfl
@[simp] theorem called_sp (x : BusAccess) : (s.called x).sp = s.sp := rfl
@[simp] theorem called_sreg (x : BusAccess) : (s.called x).sreg = s.sreg := rfl
@[simp] theorem called_eind (x : BusAccess) : (s.called x).eind = s.eind := rfl
@[simp] theorem called_rampx (x : BusAccess) : (s.called x).rampx = s.rampx := rfl
@[simp] theorem called_rampy (x : BusAccess) : (s.called x).rampy = s.rampy := rfl
@[simp] theorem called_rampz (x : BusAccess) : (s.called x).rampz = s.rampz := rfl
@[simp] theorem called_cycles (x : BusAccess) : (s.called x).cycles = s.cycles := rfl
@[simp] theorem called_asleep (x : BusAccess) : (s.called x).asleep = s.asleep := rfl
@[simp] theorem called_policy (x : BusAccess) : (s.called x).policy = s.policy := rfl
@[simp] theorem called_prog (x : BusAccess) : (s.called x).prog = s.prog := rfl
@[simp] theorem called_data (x : BusAccess) : (s.called x).data = s.data := rfl
@[simp] theorem called_regions (x : BusAccess) : (s.called x).regions = s.regions := rfl
@[simp] theorem called_progRegions (x : BusAccess) : (s.called x).progRegions = s.progRegions := rfl
@[simp] theorem called_draws (x : BusAccess) : (s.called x).draws = s.draws := rfl
@[simp] theorem called_accesses (x : BusAccess) : (s.called x).accesses = s.accesses ++ [x] := rfl
@[simp] theorem called_result (x : BusAccess) : (s.called x).result = s.result := rfl

/-! ### `keepByte` -/

@[simp] theorem keepByte_params (a : Word) (v : Byte) : (s.keepByte a v).params = s.params := rfl
@[simp] theorem keepByte_regs (a : Word) (v : Byte) : (s.keepByte a v).regs = s.regs := rfl
@[simp] theorem keepByte_pc (a : Word) (v : Byte) : (s.keepByte a v).pc = s.pc := rfl
@[simp] theorem keepByte_sp (a : Word) (v : Byte) : (s.keepByte a v).sp = s.sp := rfl
@[simp] theorem keepByte_sreg (a : Word) (v : Byte) : (s.keepByte a v).sreg = s.sreg := rfl
@[simp] theorem keepByte_eind (a : Word) (v : Byte) : (s.keepByte a v).eind = s.eind := rfl
@[simp] theorem keepByte_rampx (a : Word) (v : Byte) : (s.keepByte a v).rampx = s.rampx := rfl
@[simp] theorem keepByte_rampy (a : Word) (v : Byte) : (s.keepByte a v).rampy = s.rampy := rfl
@[simp] theorem keepByte_rampz (a : Word) (v : Byte) : (s.keepByte a v).rampz = s.rampz := rfl
@[simp] theorem keepByte_cycles (a : Word) (v : Byte) : (s.keepByte a v).cycles = s.cycles := rfl
@[simp] theorem keepByte_asleep (a : Word) (v : Byte) : (s.keepByte a v).asleep = s.asleep := rfl
@[simp] theorem keepByte_policy (a : Word) (v : Byte) : (s.keepByte a v).policy = s.policy := rfl
@[simp] theorem keepByte_prog (a : Word) (v : Byte) : (s.keepByte a v).prog = s.prog := rfl
@[simp] theorem keepByte_data (a : Word) (v : Byte) : (s.keepByte a v).data = Memory.write s.data a.toNat v := rfl
@[simp] theorem keepByte_regions (a : Word) (v : Byte) : (s.keepByte a v).regions = s.regions := rfl
@[simp] theorem keepByte_progRegions (a : Word) (v : Byte) : (s.keepByte a v).progRegions = s.progRegions := rfl
@[simp] theorem keepByte_draws (a : Word) (v : Byte) : (s.keepByte a v).draws = s.draws := rfl
@[simp] theorem keepByte_accesses (a : Word) (v : Byte) : (s.keepByte a v).accesses = s.accesses := rfl
@[simp] theorem keepByte_result (a : Word) (v : Byte) : (s.keepByte a v).result = s.result := rfl

/-! ### `afterFailedWrite` -/

@[simp] theorem afterFailedWrite_params (a : Word) (v : Byte) : (s.afterFailedWrite a v).params = s.params := rfl
@[simp] theorem afterFailedWrite_regs (a : Word) (v : Byte) : (s.afterFailedWrite a v).regs = s.regs := rfl
@[simp] theorem afterFailedWrite_pc (a : Word) (v : Byte) : (s.afterFailedWrite a v).pc = s.pc := rfl
@[simp] theorem afterFailedWrite_sp (a : Word) (v : Byte) : (s.afterFailedWrite a v).sp = s.sp := rfl
@[simp] theorem afterFailedWrite_sreg (a : Word) (v : Byte) : (s.afterFailedWrite a v).sreg = s.sreg := rfl
@[simp] theorem afterFailedWrite_eind (a : Word) (v : Byte) : (s.afterFailedWrite a v).eind = s.eind := rfl
@[simp] theorem afterFailedWrite_rampx (a : Word) (v : Byte) : (s.afterFailedWrite a v).rampx = s.rampx := rfl
@[simp] theorem afterFailedWrite_rampy (a : Word) (v : Byte) : (s.afterFailedWrite a v).rampy = s.rampy := rfl
@[simp] theorem afterFailedWrite_rampz (a : Word) (v : Byte) : (s.afterFailedWrite a v).rampz = s.rampz := rfl
@[simp] theorem afterFailedWrite_cycles (a : Word) (v : Byte) : (s.afterFailedWrite a v).cycles = s.cycles := rfl
@[simp] theorem afterFailedWrite_asleep (a : Word) (v : Byte) : (s.afterFailedWrite a v).asleep = s.asleep := rfl
@[simp] theorem afterFailedWrite_policy (a : Word) (v : Byte) : (s.afterFailedWrite a v).policy = s.policy := rfl
@[simp] theorem afterFailedWrite_prog (a : Word) (v : Byte) : (s.afterFailedWrite a v).prog = s.prog := rfl
@[simp] theorem afterFailedWrite_data (a : Word) (v : Byte) : (s.afterFailedWrite a v).data = Memory.write s.data a.toNat (Config.failedWriteByte s.draws a v) := rfl
@[simp] theorem afterFailedWrite_regions (a : Word) (v : Byte) : (s.afterFailedWrite a v).regions = s.regions := rfl
@[simp] theorem afterFailedWrite_progRegions (a : Word) (v : Byte) : (s.afterFailedWrite a v).progRegions = s.progRegions := rfl
@[simp] theorem afterFailedWrite_draws (a : Word) (v : Byte) : (s.afterFailedWrite a v).draws = s.draws + 1 := rfl
@[simp] theorem afterFailedWrite_accesses (a : Word) (v : Byte) : (s.afterFailedWrite a v).accesses = s.accesses := rfl
@[simp] theorem afterFailedWrite_result (a : Word) (v : Byte) : (s.afterFailedWrite a v).result = s.result := rfl

/-! ### `drawn` and `disturbed` -/

@[simp] theorem drawn_params : s.drawn.params = s.params := rfl
@[simp] theorem drawn_regs : s.drawn.regs = s.regs := rfl
@[simp] theorem drawn_pc : s.drawn.pc = s.pc := rfl
@[simp] theorem drawn_sp : s.drawn.sp = s.sp := rfl
@[simp] theorem drawn_sreg : s.drawn.sreg = s.sreg := rfl
@[simp] theorem drawn_eind : s.drawn.eind = s.eind := rfl
@[simp] theorem drawn_rampx : s.drawn.rampx = s.rampx := rfl
@[simp] theorem drawn_rampy : s.drawn.rampy = s.rampy := rfl
@[simp] theorem drawn_rampz : s.drawn.rampz = s.rampz := rfl
@[simp] theorem drawn_cycles : s.drawn.cycles = s.cycles := rfl
@[simp] theorem drawn_asleep : s.drawn.asleep = s.asleep := rfl
@[simp] theorem drawn_policy : s.drawn.policy = s.policy := rfl
@[simp] theorem drawn_prog : s.drawn.prog = s.prog := rfl
@[simp] theorem drawn_data : s.drawn.data = s.data := rfl
@[simp] theorem drawn_regions : s.drawn.regions = s.regions := rfl
@[simp] theorem drawn_progRegions : s.drawn.progRegions = s.progRegions := rfl
@[simp] theorem drawn_draws : s.drawn.draws = s.draws + 1 := rfl
@[simp] theorem drawn_accesses : s.drawn.accesses = s.accesses := rfl
@[simp] theorem drawn_result : s.drawn.result = s.result := rfl

@[simp] theorem disturbed_params (x : BusAccess) : (s.disturbed x).params = s.params := rfl
@[simp] theorem disturbed_regs (x : BusAccess) : (s.disturbed x).regs = s.regs := rfl
@[simp] theorem disturbed_pc (x : BusAccess) : (s.disturbed x).pc = s.pc := rfl
@[simp] theorem disturbed_sp (x : BusAccess) : (s.disturbed x).sp = s.sp := rfl
@[simp] theorem disturbed_sreg (x : BusAccess) : (s.disturbed x).sreg = s.sreg := rfl
@[simp] theorem disturbed_eind (x : BusAccess) : (s.disturbed x).eind = s.eind := rfl
@[simp] theorem disturbed_rampx (x : BusAccess) : (s.disturbed x).rampx = s.rampx := rfl
@[simp] theorem disturbed_rampy (x : BusAccess) : (s.disturbed x).rampy = s.rampy := rfl
@[simp] theorem disturbed_rampz (x : BusAccess) : (s.disturbed x).rampz = s.rampz := rfl
@[simp] theorem disturbed_cycles (x : BusAccess) : (s.disturbed x).cycles = s.cycles := rfl
@[simp] theorem disturbed_asleep (x : BusAccess) : (s.disturbed x).asleep = s.asleep := rfl
@[simp] theorem disturbed_policy (x : BusAccess) : (s.disturbed x).policy = s.policy := rfl
@[simp] theorem disturbed_prog (x : BusAccess) : (s.disturbed x).prog = Program.ofWords (Config.oracleWords s.draws x) := rfl
@[simp] theorem disturbed_data (x : BusAccess) : (s.disturbed x).data = Memory.ofBytes (Config.oracleBytes s.draws x) := rfl
@[simp] theorem disturbed_regions (x : BusAccess) : (s.disturbed x).regions = Config.oracleRegions s.draws x := rfl
@[simp] theorem disturbed_progRegions (x : BusAccess) : (s.disturbed x).progRegions = Config.oracleProgRegions s.draws x := rfl
@[simp] theorem disturbed_draws (x : BusAccess) : (s.disturbed x).draws = s.draws + 1 := rfl
@[simp] theorem disturbed_accesses (x : BusAccess) : (s.disturbed x).accesses = s.accesses := rfl
@[simp] theorem disturbed_result (x : BusAccess) : (s.disturbed x).result = s.result := rfl

/-! ### Reading registers -/

@[simp] theorem reg_setReg_self (i : Reg) (v : Byte) : (s.setReg i v).reg i = v := by simp [reg, setReg]

theorem reg_setReg_of_ne {i j : Reg} (h : j ≠ i) (v : Byte) : (s.setReg i v).reg j = s.reg j := by
  have h' : i.val ≠ j.val := fun e => h (Fin.ext e.symm)
  simp [reg, setReg, h']

theorem reg_setReg (i j : Reg) (v : Byte) : (s.setReg i v).reg j = if j = i then v else s.reg j := by
  split
  · next h => rw [h, reg_setReg_self]
  · next h => exact s.reg_setReg_of_ne h v

theorem reg_eq_of_regs_eq {s t : State} (h : t.regs = s.regs) (i : Reg) : t.reg i = s.reg i := by simp [reg, h]

/-- A register reads as before where only other fields changed. -/
@[simp] theorem reg_setSreg (f : Sreg) (i : Reg) : (s.setSreg f).reg i = s.reg i := rfl
@[simp] theorem reg_setPc (v : PcWord) (i : Reg) : (s.setPc v).reg i = s.reg i := rfl
@[simp] theorem reg_setSp (v : Word) (i : Reg) : (s.setSp v).reg i = s.reg i := rfl
@[simp] theorem reg_called (x : BusAccess) (i : Reg) : (s.called x).reg i = s.reg i := rfl
@[simp] theorem reg_keepByte (a : Word) (v : Byte) (i : Reg) : (s.keepByte a v).reg i = s.reg i := rfl
@[simp] theorem reg_drawn (i : Reg) : s.drawn.reg i = s.reg i := rfl
@[simp] theorem reg_disturbed (x : BusAccess) (i : Reg) : (s.disturbed x).reg i = s.reg i := rfl
@[simp] theorem reg_afterFailedWrite (a : Word) (v : Byte) (i : Reg) : (s.afterFailedWrite a v).reg i = s.reg i := rfl

theorem reg_setPair (d j : Reg) (w : Word) :
    (s.setPair d w).reg j = if j = d + 1 then hiByte w else if j = d then loByte w else s.reg j := by
  simp [setPair, reg_setReg]

/-- A register that is no byte of the pointer reads as before a pointer write. -/
theorem reg_setPtr_of_not_byte {p : Ptr} {r : Reg} (h : p.isByte r = false) (w : Word) :
    (s.setPtr p w).reg r = s.reg r := by
  simp only [Ptr.isByte, Bool.or_eq_false_iff, decide_eq_false_iff_not] at h
  simp [setPtr, reg_setPair, h.1, h.2]

/-- A pair reads back what was written to it. -/
theorem pair_setPair (d : Reg) (w : Word) : (s.setPair d w).pair d = w := by
  have hd : d ≠ d + 1 := by revert d; decide
  simp only [pair, reg_setPair, hd, if_true, if_false]
  exact joinBytes_hi_lo w

@[simp] theorem ptr_setPtr (p : Ptr) (w : Word) : (s.setPtr p w).ptr p = w := s.pair_setPair p.low w

end Sys2Proof.Machine.State

namespace Sys2Proof.Machine

/-- The mask of R33 is idempotent, so a masked pc is in range. -/
@[simp] theorem maskPc_maskPc (w : PcWidth) (v : PcWord) : maskPc w (maskPc w v) = maskPc w v := by
  cases w <;> simp [maskPc, BitVec.and_assoc]

theorem pcInRange_setPc (s : State) (v : PcWord) : (s.setPc v).pcInRange = true := by
  simp [State.pcInRange]

end Sys2Proof.Machine
end

