-- ==== Sys2Proof/Laws/Ops.lean ====
section
/-! SUPPORT. What each shared operation can do, said once: the three calls of the port, the access primitives, the stack,
the fetch, and the ends of a step. Later proofs cite these and do not unfold the operations. -/

namespace Sys2Proof.Machine

/-! ## The port -/

/-- An address of the program space that is plain memory: the answer is the word that exists there. -/
theorem readProgramMemory_held {wa : BitVec 32} {s : State}
    (h : regionKind s.progRegions wa.toNat = .ram ∨ regionKind s.progRegions wa.toNat = .readOnly) :
    readProgramMemory wa s = (Program.word s.prog wa.toNat, s.called (.progRead wa.toNat)) := by
  rcases h with h | h <;> simp [readProgramMemory, h]

/-- An address the backend holds a byte at and lets read: the answer is that byte. -/
theorem readDataMemory_held {a : Word} {s : State}
    (h : regionKind s.regions a.toNat = .ram ∨ regionKind s.regions a.toNat = .readOnly) :
    readDataMemory a s = (some (Memory.read s.data a.toNat), s.called (.dataRead a.toNat)) := by
  rcases h with h | h <;> simp [readDataMemory, h]

/-- A write to an address the backend holds a byte at and lets be written is kept. -/
theorem writeDataMemory_kept {a : Word} {s : State} (v : Byte)
    (h : regionKind s.regions a.toNat = .ram ∨ regionKind s.regions a.toNat = .writeOnly) :
    writeDataMemory a v s = (true, (s.called (.dataWrite a.toNat v)).keepByte a v) := by
  rcases h with h | h <;> simp [writeDataMemory, h]

/-! ## What the calls change: the record of them, and the backend at most (`Called`) -/

theorem called_nil (s : State) : Called [] s s :=
  ⟨by simp [State.withBackend], fun _ => ⟨rfl, rfl, rfl, fun _ _ => rfl⟩⟩

/-- Calls one after the other. -/
theorem Called.trans {xs ys : List BusAccess} {s u t : State} (h : Called xs s u) (k : Called ys u t) :
    Called (xs ++ ys) s t := by
  constructor
  · refine k.1.trans ?_
    have e := congrArg (fun y : State => { y.withBackend t with accesses := y.accesses ++ ys }) h.1
    exact e.trans (by simp [State.withBackend])
  · intro hu
    obtain ⟨h1, h2, h3, h4⟩ := h.2 fun x hx => hu x (List.mem_append_left _ hx)
    have hy : Undisturbed u ys := fun x hx => by
      have := hu x (List.mem_append_right _ hx)
      cases x <;> simpa [BusAccess.kind, h2, h3] using this
    obtain ⟨k1, k2, k3, k4⟩ := k.2 hy
    refine ⟨k1.trans h1, k2.trans h2, k3.trans h3, fun b hb => ?_⟩
    exact (k4 b fun v hv => hb v (List.mem_append_right _ hv)).trans (h4 b fun v hv => hb v (List.mem_append_left _ hv))

/-- A call of a kind that is no oracle's leaves both maps and the program, and every byte it does not write. -/
theorem called_one {x : BusAccess} {s t : State} (h : t = { s.withBackend t with accesses := s.accesses ++ [x] })
    (k : x.kind s ≠ .oracle → t.prog = s.prog ∧ t.regions = s.regions ∧ t.progRegions = s.progRegions ∧
      ∀ b, (∀ v, x ≠ .dataWrite b v) → Memory.read t.data b = Memory.read s.data b) : Called [x] s t := by
  refine ⟨h, fun hu => ?_⟩
  obtain ⟨h1, h2, h3, h4⟩ := k (hu x List.mem_cons_self)
  exact ⟨h1, h2, h3, fun b hb => h4 b fun v e => hb v (e ▸ List.mem_cons_self)⟩

/-- What a program read changes. -/
theorem called_readProgramMemory (wa : BitVec 32) (s : State) :
    Called [.progRead wa.toNat] s (readProgramMemory wa s).2 := by
  refine called_one ?_ fun hk => ?_
  · simp only [readProgramMemory]
    split <;> rfl
  · simp only [BusAccess.kind] at hk
    simp only [readProgramMemory]
    split
    case h_6 h => exact absurd h hk
    all_goals exact ⟨rfl, rfl, rfl, fun _ _ => rfl⟩

/-- What a data read changes. -/
theorem called_readDataMemory (a : Word) (s : State) : Called [.dataRead a.toNat] s (readDataMemory a s).2 := by
  refine called_one ?_ fun hk => ?_
  · simp only [readDataMemory]
    split <;> rfl
  · simp only [BusAccess.kind] at hk
    simp only [readDataMemory]
    split
    case h_6 h => exact absurd h hk
    all_goals exact ⟨rfl, rfl, rfl, fun _ _ => rfl⟩

/-- What a data write changes. -/
theorem called_writeDataMemory (a : Word) (v : Byte) (s : State) :
    Called [.dataWrite a.toNat v] s (writeDataMemory a v s).2 := by
  have hne : ∀ b, (∀ w, BusAccess.dataWrite a.toNat v ≠ .dataWrite b w) → b ≠ a.toNat := fun b h e => h v (by rw [e])
  refine called_one ?_ fun hk => ?_
  · simp only [writeDataMemory]
    split
    case h_5 => split <;> rfl
    all_goals rfl
  · simp only [BusAccess.kind] at hk
    simp only [writeDataMemory]
    split
    case h_6 h => exact absurd h hk
    case h_5 =>
      split
      · exact ⟨rfl, rfl, rfl, fun _ _ => rfl⟩
      · exact ⟨rfl, rfl, rfl, fun b hb => Memory.read_write_of_ne _ (hne b hb) _⟩
    all_goals exact ⟨rfl, rfl, rfl, fun b hb => Memory.read_write_of_ne _ (hne b hb) _⟩

/-! The core's own fields ride along: what is true of calls from `s` is true of them from `s` with other registers, SP or pc. -/

theorem Called.setReg {xs : List BusAccess} {s t : State} (h : Called xs s t) (i : Reg) (v : Byte) :
    Called xs (s.setReg i v) (t.setReg i v) := ⟨congrArg (fun y : State => y.setReg i v) h.1, h.2⟩

theorem Called.setSp {xs : List BusAccess} {s t : State} (h : Called xs s t) (v : Word) :
    Called xs (s.setSp v) (t.setSp v) := ⟨congrArg (fun y : State => y.setSp v) h.1, h.2⟩

theorem Called.setPc {xs : List BusAccess} {s t : State} (h : Called xs s t) (v : PcWord) :
    Called xs (s.setPc v) (t.setPc v) := ⟨congrArg (fun y : State => y.setPc v) h.1, h.2⟩

theorem Called.setSreg {xs : List BusAccess} {s t : State} (h : Called xs s t) (f : Sreg) :
    Called xs (s.setSreg f) (t.setSreg f) := ⟨congrArg (fun y : State => y.setSreg f) h.1, h.2⟩

theorem Called.params {xs : List BusAccess} {s t : State} (h : Called xs s t) : t.params = s.params := by rw [h.1]; rfl
theorem Called.regs {xs : List BusAccess} {s t : State} (h : Called xs s t) : t.regs = s.regs := by rw [h.1]; rfl
theorem Called.reg {xs : List BusAccess} {s t : State} (h : Called xs s t) (i : Reg) : t.reg i = s.reg i :=
  State.reg_eq_of_regs_eq h.regs i
theorem Called.pc {xs : List BusAccess} {s t : State} (h : Called xs s t) : t.pc = s.pc := by rw [h.1]; rfl
theorem Called.sp {xs : List BusAccess} {s t : State} (h : Called xs s t) : t.sp = s.sp := by rw [h.1]; rfl
theorem Called.sreg {xs : List BusAccess} {s t : State} (h : Called xs s t) : t.sreg = s.sreg := by rw [h.1]; rfl
theorem Called.eind {xs : List BusAccess} {s t : State} (h : Called xs s t) : t.eind = s.eind := by rw [h.1]; rfl
theorem Called.rampz {xs : List BusAccess} {s t : State} (h : Called xs s t) : t.rampz = s.rampz := by rw [h.1]; rfl
theorem Called.cycles {xs : List BusAccess} {s t : State} (h : Called xs s t) : t.cycles = s.cycles := by rw [h.1]; rfl
theorem Called.asleep {xs : List BusAccess} {s t : State} (h : Called xs s t) : t.asleep = s.asleep := by rw [h.1]; rfl
theorem Called.policy {xs : List BusAccess} {s t : State} (h : Called xs s t) : t.policy = s.policy := by rw [h.1]; rfl
theorem Called.accesses {xs : List BusAccess} {s t : State} (h : Called xs s t) : t.accesses = s.accesses ++ xs := by
  rw [h.1]

/-! ## The port does not look at the core's own registers -/

/-- The core's registers that an instruction may write before an access. -/
def State.withCore (s : State) (r : Vector Byte 32) (pc : PcWord) (sp : Word) (z : Byte) : State :=
  { s with regs := r, pc := pc, sp := sp, rampz := z }

theorem readProgramMemory_core (wa : BitVec 32) (s : State) (r : Vector Byte 32) (pc : PcWord) (sp : Word) (z : Byte) :
    readProgramMemory wa (s.withCore r pc sp z)
      = ((readProgramMemory wa s).1, (readProgramMemory wa s).2.withCore r pc sp z) := by
  simp only [readProgramMemory, show (s.withCore r pc sp z).progRegions = s.progRegions from rfl]
  split <;> rfl

theorem readDataMemory_core (a : Word) (s : State) (r : Vector Byte 32) (pc : PcWord) (sp : Word) (z : Byte) :
    readDataMemory a (s.withCore r pc sp z) = ((readDataMemory a s).1, (readDataMemory a s).2.withCore r pc sp z) := by
  simp only [readDataMemory, show (s.withCore r pc sp z).regions = s.regions from rfl]
  split <;> rfl

theorem writeDataMemory_core (a : Word) (v : Byte) (s : State) (r : Vector Byte 32) (pc : PcWord) (sp : Word) (z : Byte) :
    writeDataMemory a v (s.withCore r pc sp z)
      = ((writeDataMemory a v s).1, (writeDataMemory a v s).2.withCore r pc sp z) := by
  simp only [writeDataMemory, show (s.withCore r pc sp z).regions = s.regions from rfl,
    show (s.withCore r pc sp z).draws = s.draws from rfl]
  cases regionKind s.regions a.toNat with
  | device => dsimp only; cases Config.deviceWrite s.draws a v <;> rfl
  | _ => rfl

theorem readDataMemory_setSp (a : Word) (s : State) (x : Word) :
    readDataMemory a (s.setSp x) = ((readDataMemory a s).1, (readDataMemory a s).2.setSp x) := by
  have h := called_readDataMemory a s
  have e := readDataMemory_core a s s.regs s.pc x s.rampz
  rw [show s.withCore s.regs s.pc x s.rampz = s.setSp x from rfl, ← h.regs, ← h.pc, ← h.rampz] at e
  exact e

theorem writeDataMemory_setSp (a : Word) (v : Byte) (s : State) (x : Word) :
    writeDataMemory a v (s.setSp x) = ((writeDataMemory a v s).1, (writeDataMemory a v s).2.setSp x) := by
  have h := called_writeDataMemory a v s
  have e := writeDataMemory_core a v s s.regs s.pc x s.rampz
  rw [show s.withCore s.regs s.pc x s.rampz = s.setSp x from rfl, ← h.regs, ← h.pc, ← h.rampz] at e
  exact e

theorem readDataMemory_setPtr (a : Word) (s : State) (p : Ptr) (w : Word) :
    readDataMemory a (s.setPtr p w) = ((readDataMemory a s).1, (readDataMemory a s).2.setPtr p w) := by
  have h := called_readDataMemory a s
  have e := readDataMemory_core a s (s.setPtr p w).regs s.pc s.sp s.rampz
  refine e.trans (Prod.ext rfl ?_)
  simp only [State.withCore, State.setPtr, State.setPair, State.setReg, ← h.regs, ← h.pc, ← h.sp, ← h.rampz]

theorem writeDataMemory_setPtr (a : Word) (v : Byte) (s : State) (p : Ptr) (w : Word) :
    writeDataMemory a v (s.setPtr p w) = ((writeDataMemory a v s).1, (writeDataMemory a v s).2.setPtr p w) := by
  have h := called_writeDataMemory a v s
  have e := writeDataMemory_core a v s (s.setPtr p w).regs s.pc s.sp s.rampz
  refine e.trans (Prod.ext rfl ?_)
  simp only [State.withCore, State.setPtr, State.setPair, State.setReg, ← h.regs, ← h.pc, ← h.sp, ← h.rampz]

/-! ## Access primitives -/

theorem progRead_some {wa : BitVec 32} {s : State} {w : Word} (h : (readProgramMemory wa s).1 = some w)
    (k : Word → State → Outcome) : progRead wa s k = k w (readProgramMemory wa s).2 := by
  unfold progRead
  generalize readProgramMemory wa s = x at h
  obtain ⟨_, _⟩ := x
  cases h
  rfl

theorem progRead_none {wa : BitVec 32} {s : State} (h : (readProgramMemory wa s).1 = none)
    (k : Word → State → Outcome) :
    progRead wa s k = raise (.addressUnreadable .program wa.toNat) (readProgramMemory wa s).2 := by
  unfold progRead
  generalize readProgramMemory wa s = x at h
  obtain ⟨_, _⟩ := x
  cases h
  rfl

theorem memRead_some {a : Word} {s : State} {b : Byte} (h : (readDataMemory a s).1 = some b)
    (k : Byte → State → Outcome) : memRead a s k = k b (readDataMemory a s).2 := by
  unfold memRead
  generalize readDataMemory a s = x at h
  obtain ⟨_, _⟩ := x
  cases h
  rfl

theorem memRead_none {a : Word} {s : State} (h : (readDataMemory a s).1 = none) (k : Byte → State → Outcome) :
    memRead a s k = raise (.addressUnreadable .data a.toNat) (readDataMemory a s).2 := by
  unfold memRead
  generalize readDataMemory a s = x at h
  obtain ⟨_, _⟩ := x
  cases h
  rfl

theorem memWrite_true {a : Word} {v : Byte} {s : State} (h : (writeDataMemory a v s).1 = true) (k : State → Outcome) :
    memWrite a v s k = k (writeDataMemory a v s).2 := by
  unfold memWrite
  generalize writeDataMemory a v s = x at h
  obtain ⟨_, _⟩ := x
  cases h
  rfl

theorem memWrite_false {a : Word} {v : Byte} {s : State} (h : (writeDataMemory a v s).1 = false) (k : State → Outcome) :
    memWrite a v s k = raise (.addressUnwritable a.toNat v) (writeDataMemory a v s).2 := by
  unfold memWrite
  generalize writeDataMemory a v s = x at h
  obtain ⟨_, _⟩ := x
  cases h
  rfl

/-- The program-word address a fetch reads is the pc. -/
@[simp] theorem fetchAddr_toNat (pc : PcWord) : (pc.zeroExtend 32).toNat = pc.toNat := by
  simp [BitVec.toNat_setWidth]
  omega

theorem fetchWord_some {s : State} {w : Word} (h : (readProgramMemory (s.pc.zeroExtend 32) s).1 = some w)
    (k : Word → State → Outcome) :
    fetchWord s k = k w ((readProgramMemory (s.pc.zeroExtend 32) s).2.setPc (s.pc + 1#22)) := by
  unfold fetchWord
  rw [progRead_some h, (called_readProgramMemory _ s).pc]

theorem fetchWord_none {s : State} (h : (readProgramMemory (s.pc.zeroExtend 32) s).1 = none)
    (k : Word → State → Outcome) :
    fetchWord s k = raise (.addressUnreadable .program s.pc.toNat) (readProgramMemory (s.pc.zeroExtend 32) s).2 := by
  unfold fetchWord
  rw [progRead_none h, fetchAddr_toNat]

/-! ## The pc of the instruction being executed -/

/-- With a 16-bit PC the mask is the value modulo 2^16 (R33). -/
theorem maskPc_pc16_toNat (v : PcWord) : (maskPc .pc16 v).toNat = v.toNat % 65536 := by
  simp only [maskPc, BitVec.toNat_and]
  exact Nat.and_two_pow_sub_one_eq_mod v.toNat 16

/-- The mask of one word back from one word on, from a pc in range, is that pc. -/
theorem maskPc_pred_succ {w : PcWidth} {v : PcWord} (h : maskPc w v = v) :
    maskPc w (maskPc w (v + 1#22) - 1#22) = v := by
  cases w with
  | pc16 =>
    have hv := congrArg BitVec.toNat h
    rw [maskPc_pc16_toNat] at hv
    apply BitVec.eq_of_toNat_eq
    simp only [maskPc_pc16_toNat, BitVec.toNat_sub, BitVec.toNat_add, BitVec.toNat_ofNat, Nat.reducePow, Nat.reduceMod]
    omega
  | pc22 => simp [maskPc]

/-- After the fetch of a one-word instruction from an address in range, `pc0` is that address (R15, R605). -/
theorem pc0_after_fetch {xs : List BusAccess} {s t : State} (h : s.pcInRange = true) (ht : Called xs s t) :
    (t.setPc (s.pc + 1#22)).pc0 = s.pc := by
  simp only [State.pcInRange, beq_iff_eq] at h
  simp only [State.pc0, State.setPc_params, State.setPc_pc, ht.params]
  exact maskPc_pred_succ h

/-- Masking before an addition changes nothing after it (R33, R34). -/
theorem maskPc_add (w : PcWidth) (v k : PcWord) : maskPc w (maskPc w v + k) = maskPc w (v + k) := by
  cases w with
  | pc16 =>
    apply BitVec.eq_of_toNat_eq
    simp only [maskPc_pc16_toNat, BitVec.toNat_add]
    omega
  | pc22 => rfl

/-- Past the second word. -/
theorem maskPc_succ_succ (w : PcWidth) (v : PcWord) : maskPc w (maskPc w (v + 1#22) + 1#22) = maskPc w (v + 2#22) := by
  rw [maskPc_add, BitVec.add_assoc]
  rfl

/-- A failure has not taken the counter back (R721). -/
theorem le_cyclesAfterFailure (c : BitVec 64) (n : Nat) : c ≤ cyclesAfterFailure c n := by
  unfold cyclesAfterFailure
  split
  · assumption
  · exact BitVec.le_refl _

/-! ## The two ends of a step, after calls on the port -/

/-- The end of a successful step. -/
theorem Called.finish {xs : List BusAccess} {u v : State} (h : Called xs u v) (n : Nat) :
    Ran n xs u { v with cycles := v.cycles + BitVec.ofNat 64 n, result := .ok n } :=
  ⟨congrArg (fun y : State => { y with cycles := y.cycles + BitVec.ofNat 64 n, result := .ok n }) h.1, h.2⟩

/-- The end of a step by any failure but BREAK's. -/
theorem Called.failed {xs : List BusAccess} {u v : State} (h : Called xs u v) {f : Fault}
    (hf : ∀ p, f ≠ .breakInterrupt p) : FailedAfter f xs u (v.failed f) := by
  have e : v.failed f =
      { v with cycles := cyclesAfterFailure v.cycles v.draws, draws := v.draws + 1, result := .err f } := by
    cases f <;> first | rfl | exact absurd rfl (hf _)
  rw [e]
  refine ⟨congrArg (fun y : State => { y with
    cycles := cyclesAfterFailure v.cycles v.draws, draws := v.draws + 1, result := .err f }) h.1, ?_, h.2⟩
  rw [← h.cycles]
  exact le_cyclesAfterFailure _ _

/-! ## Inversion: what holds of the next state an operation answers -/

/-- Every next state of the outcome has the property. -/
def Keeps (Q : State → Prop) (o : Outcome) : Prop := ∀ t, o = .next t → Q t

theorem keeps_next {Q : State → Prop} {s : State} (h : Q s) : Keeps Q (.next s) := by
  intro t e
  cases e
  exact h

theorem keeps_refused {Q : State → Prop} (r : Refusal) : Keeps Q (.refused r) := by
  intro t e
  cases e

theorem keeps_unlessOwn {P Q : State → Prop} {s : State} {i : Instr} {p : Ptr} {r : Reg} {k : State → Outcome} (hs : P s)
    (hk : ∀ u, P u → Keeps Q (k u)) : Keeps Q (unlessOwn i p r s k) := by
  unfold unlessOwn
  split
  · exact keeps_refused _
  · exact hk s hs

/-- What the updates on an instruction's way may write. -/
structure Footprint where
  reg   : Reg → Prop
  flag  : BitNo → Prop
  sp    : Prop
  rampz : Prop

/-- Everything. -/
def Footprint.all : Footprint := ⟨fun _ => True, fun _ => True, True, True⟩

/-- `P` is kept by every update an instruction of the footprint `A` makes on its way, and leads to `Q` at each of the two ends
of a step. Every invariant of the step, and every frame, is an instance of this. -/
structure Closed (A : Footprint) (P Q : State → Prop) : Prop where
  setReg   : ∀ s i v, A.reg i → P s → P (s.setReg i v)
  setRampz : ∀ s v, A.rampz → P s → P { s with rampz := v }
  setSreg  : ∀ s f, (∀ k, ¬A.flag k → f.bit k = s.sreg.bit k) → P s → P (s.setSreg f)
  setPc    : ∀ s v, P s → P (s.setPc v)
  setSp    : ∀ s v, A.sp → P s → P (s.setSp v)
  called   : ∀ s x, P s → P (s.called x)
  wrote    : ∀ s (a : Word) v b, P s → P ((s.called (.dataWrite a.toNat v)).keepByte a b)
  drawn    : ∀ s n, P s → P { s with draws := n }
  oracle   : ∀ s x, x.kind s = .oracle → P s → P ((s.called x).disturbed x)
  finish   : ∀ s n, 1 ≤ n → n ≤ 5 → P s → Q { s with cycles := s.cycles + BitVec.ofNat 64 n, result := .ok n }
  failed   : ∀ s f, P s → Q (s.failed f)

/-- A property kept by every update is kept by those of any footprint. -/
theorem Closed.of_all {P Q : State → Prop} (h : Closed .all P Q) (A : Footprint) : Closed A P Q where
  setReg s i v _ := h.setReg s i v trivial
  setRampz s v _ := h.setRampz s v trivial
  setSreg s f _ := h.setSreg s f fun _ hk => absurd trivial hk
  setPc := h.setPc
  setSp s v _ := h.setSp s v trivial
  called := h.called
  wrote := h.wrote
  drawn := h.drawn
  oracle := h.oracle
  finish := h.finish
  failed := h.failed

namespace Closed

variable {A : Footprint} {P Q : State → Prop} (h : Closed A P Q)
include h

theorem setPair {s : State} (d : Reg) (w : Word) (h0 : A.reg d) (h1 : A.reg (d + 1)) (hs : P s) : P (s.setPair d w) :=
  h.setReg _ _ _ h1 (h.setReg _ _ _ h0 hs)

theorem setPtr {s : State} (p : Ptr) (w : Word) (hp : ∀ j, p.isByte j = true → A.reg j) (hs : P s) : P (s.setPtr p w) :=
  h.setPair p.low w (hp _ (by simp [Ptr.isByte])) (hp _ (by simp [Ptr.isByte])) hs

theorem setRampzZ {s : State} (a : BitVec 24) (hz : A.rampz) (hp : ∀ j, Ptr.z.isByte j = true → A.reg j) (hs : P s) :
    P (s.setRampzZ a) :=
  h.setRampz _ _ hz (h.setPtr _ _ hp hs)

theorem keeps_finish {s : State} (n : Nat) (h1 : 1 ≤ n) (h5 : n ≤ 5) (hs : P s) : Keeps Q (Machine.finish n s) :=
  keeps_next (h.finish s n h1 h5 hs)

theorem keeps_raise {s : State} (f : Fault) (hs : P s) : Keeps Q (raise f s) := keeps_next (h.failed s f hs)

theorem readProg {s : State} (wa : BitVec 32) (hs : P s) : P (readProgramMemory wa s).2 := by
  have hc := h.called s (.progRead wa.toNat) hs
  simp only [readProgramMemory]
  split
  case h_5 => exact h.drawn _ _ hc
  case h_6 hk => exact h.oracle _ _ hk hs
  all_goals exact hc

theorem readData {s : State} (a : Word) (hs : P s) : P (readDataMemory a s).2 := by
  have hc := h.called s (.dataRead a.toNat) hs
  simp only [readDataMemory]
  split
  case h_5 => exact h.drawn _ _ hc
  case h_6 hk => exact h.oracle _ _ hk hs
  all_goals exact hc

theorem writeData {s : State} (a : Word) (v : Byte) (hs : P s) : P (writeDataMemory a v s).2 := by
  have hw := h.wrote s a v v hs
  have hf := h.drawn _ (s.draws + 1) (h.wrote s a v (Config.failedWriteByte s.draws a v) hs)
  have hd := h.drawn _ (s.draws + 2) (h.wrote s a v (Config.failedWriteByte (s.draws + 1) a v) hs)
  simp only [writeDataMemory]
  split
  · exact hw
  · exact hw
  · exact hf
  · exact hf
  · split
    · exact h.drawn _ _ (h.called s (.dataWrite a.toNat v) hs)
    · exact hd
  · next hk => exact h.oracle s (.dataWrite a.toNat v) hk hs

theorem keeps_progRead {s : State} {wa : BitVec 32} {k : Word → State → Outcome} (hs : P s)
    (hk : ∀ w u, P u → Keeps Q (k w u)) : Keeps Q (progRead wa s k) := by
  have hr := h.readProg wa hs
  cases hw : (readProgramMemory wa s).1 with
  | none => rw [progRead_none hw]; exact h.keeps_raise _ hr
  | some w => rw [progRead_some hw]; exact hk w _ hr

theorem keeps_memRead {s : State} {a : Word} {k : Byte → State → Outcome} (hs : P s)
    (hk : ∀ b u, P u → Keeps Q (k b u)) : Keeps Q (memRead a s k) := by
  have hr := h.readData a hs
  cases hb : (readDataMemory a s).1 with
  | none => rw [memRead_none hb]; exact h.keeps_raise _ hr
  | some b => rw [memRead_some hb]; exact hk b _ hr

theorem keeps_memWrite {s : State} {a : Word} {v : Byte} {k : State → Outcome} (hs : P s)
    (hk : ∀ u, P u → Keeps Q (k u)) : Keeps Q (memWrite a v s k) := by
  have hw := h.writeData a v hs
  cases hb : (writeDataMemory a v s).1 with
  | false => rw [memWrite_false hb]; exact h.keeps_raise _ hw
  | true => rw [memWrite_true hb]; exact hk _ hw

theorem keeps_fetchWord {s : State} {k : Word → State → Outcome} (hs : P s)
    (hk : ∀ w u, P u → Keeps Q (k w u)) : Keeps Q (fetchWord s k) :=
  h.keeps_progRead hs fun w _ hu => hk w _ (h.setPc _ _ hu)

theorem keeps_pushByte {s : State} {v : Byte} {k : State → Outcome} (hA : A.sp) (hs : P s)
    (hk : ∀ u, P u → Keeps Q (k u)) : Keeps Q (pushByte v s k) :=
  h.keeps_memWrite hs fun _ hu => hk _ (h.setSp _ _ hA hu)

theorem keeps_popByte {s : State} {k : Byte → State → Outcome} (hA : A.sp) (hs : P s)
    (hk : ∀ b u, P u → Keeps Q (k b u)) : Keeps Q (popByte s k) :=
  h.keeps_memRead (h.setSp _ _ hA hs) hk

theorem keeps_pushRet {s : State} {a : PcWord} {k : State → Outcome} (hA : A.sp) (hs : P s)
    (hk : ∀ u, P u → Keeps Q (k u)) : Keeps Q (pushRet a s k) :=
  h.keeps_pushByte hA hs fun _ hu => h.keeps_pushByte hA hu fun u hu => by
    split
    · exact hk u hu
    · exact h.keeps_pushByte hA hu hk

theorem keeps_popRet {s : State} {k : PcWord → State → Outcome} (hA : A.sp) (hs : P s)
    (hk : ∀ a u, P u → Keeps Q (k a u)) : Keeps Q (popRet s k) := by
  unfold popRet
  split
  · exact h.keeps_popByte hA hs fun _ _ hu => h.keeps_popByte hA hu fun _ _ hu => hk _ _ hu
  · exact h.keeps_popByte hA hs fun _ _ hu => h.keeps_popByte hA hu fun _ _ hu => h.keeps_popByte hA hu fun _ _ hu => hk _ _ hu

theorem keeps_returnTo {s : State} {k : State → Outcome} (hA : A.sp) (hs : P s) (hk : ∀ u, P u → Keeps Q (k u)) :
    Keeps Q (returnTo s k) :=
  h.keeps_popRet hA hs fun _ _ hu => hk _ (h.setPc _ _ hu)

theorem keeps_fetchInstr {s : State} {k : Word → Word → State → Outcome} (hs : P s)
    (hk : ∀ op op2 u, P u → Keeps Q (k op op2 u)) : Keeps Q (fetchInstr s k) :=
  h.keeps_fetchWord hs fun op u hu => by
    split
    · exact h.keeps_fetchWord hu (hk op)
    · exact hk op _ u hu

theorem keeps_unknownWord {s : State} (op : Word) (hs : P s) : Keeps Q (unknownWord op s) := by
  unfold unknownWord
  split
  · exact h.keeps_finish 1 (by decide) (by decide) hs
  · exact h.keeps_raise _ hs
  · exact h.keeps_raise _ hs

theorem keeps_skip {s : State} (hs : P s) : Keeps Q (skip s) :=
  h.keeps_fetchWord hs fun w u hu => by
    split
    · exact h.keeps_finish 3 (by decide) (by decide) (h.setPc _ _ hu)
    · exact h.keeps_finish 2 (by decide) (by decide) hu

theorem keeps_skipIf {s : State} (cond : Bool) (hs : P s) : Keeps Q (skipIf cond s) := by
  unfold skipIf
  split
  · exact h.keeps_skip hs
  · exact h.keeps_finish 1 (by decide) (by decide) hs

theorem keeps_needs22 {s : State} {i : Instr} {k : State → Outcome} (hs : P s) (hk : ∀ u, P u → Keeps Q (k u)) :
    Keeps Q (needs22 i s k) := by
  unfold needs22
  split
  · exact h.keeps_raise _ hs
  · exact hk s hs

theorem keeps_loadFrom {s : State} (d : Reg) (a : Word) (hd : A.reg d) (hs : P s) : Keeps Q (loadFrom d a s) :=
  h.keeps_memRead hs fun _ _ hu => h.keeps_finish 2 (by decide) (by decide) (h.setReg _ _ _ hd hu)

theorem keeps_storeTo {s : State} (a : Word) (r : Reg) (hs : P s) : Keeps Q (storeTo a r s) :=
  h.keeps_memWrite hs fun _ hu => h.keeps_finish 2 (by decide) (by decide) hu

theorem keeps_lpmFrom {s : State} (d : Reg) (a : Word) (hd : A.reg d) (hs : P s) : Keeps Q (lpmFrom d a s) :=
  h.keeps_progRead hs fun _ _ hu => h.keeps_finish 3 (by decide) (by decide) (h.setReg _ _ _ hd hu)

theorem keeps_elpmFrom {s : State} (d : Reg) (a : BitVec 24) (hd : A.reg d) (hs : P s) : Keeps Q (elpmFrom d a s) :=
  h.keeps_progRead hs fun _ _ hu => h.keeps_finish 3 (by decide) (by decide) (h.setReg _ _ _ hd hu)

theorem keeps_exchangeZ {s : State} (f : Byte → Byte → Byte) (d : Reg) (hd : A.reg d) (hs : P s) : Keeps Q (exchangeZ f d s) :=
  h.keeps_memRead hs fun _ _ hu => h.keeps_memWrite hu fun _ hv =>
    h.keeps_finish 2 (by decide) (by decide) (h.setReg _ _ _ hd hv)

theorem keeps_modifyIo {s : State} (a : Word) (f : Byte → Byte) (hs : P s) : Keeps Q (modifyIo a f s) :=
  h.keeps_memRead hs fun _ _ hu => h.keeps_memWrite hu fun _ hv => h.keeps_finish 2 (by decide) (by decide) hv

theorem keeps_writeBoth {s : State} (d : Reg) (res : Byte) (f : Sreg) (hd : A.reg d)
    (hf : ∀ k, ¬A.flag k → f.bit k = s.sreg.bit k) (hs : P s) : Keeps Q (writeBoth d res f s) :=
  h.keeps_finish 1 (by decide) (by decide) (h.setSreg _ _ hf (h.setReg _ _ _ hd hs))

theorem keeps_writeFlags {s : State} (f : Sreg) (hf : ∀ k, ¬A.flag k → f.bit k = s.sreg.bit k) (hs : P s) :
    Keeps Q (writeFlags f s) :=
  h.keeps_finish 1 (by decide) (by decide) (h.setSreg _ _ hf hs)

theorem keeps_writePairFlags {s : State} (d : Reg) (res : Word) (f : Sreg) (h0 : A.reg d) (h1 : A.reg (d + 1))
    (hf : ∀ k, ¬A.flag k → f.bit k = s.sreg.bit k) (hs : P s) : Keeps Q (writePairFlags d res f s) :=
  h.keeps_finish 2 (by decide) (by decide) (h.setSreg _ _ hf (h.setPair _ _ h0 h1 hs))

theorem keeps_writeProduct {s : State} (p w : Word) (h0 : A.reg 0) (h1 : A.reg 1)
    (hf : ∀ k, ¬A.flag k → (mulFlags p w s.sreg).bit k = s.sreg.bit k) (hs : P s) : Keeps Q (writeProduct p w s) :=
  h.keeps_finish 2 (by decide) (by decide) (h.setSreg _ _ hf (h.setPair 0 _ h0 h1 hs))

end Closed

/-! ## No operation stops: every one answers a next state where what follows it does -/

/-- The outcome is a next state. -/
def Ends (o : Outcome) : Prop := ∃ t, o = .next t

theorem ends_next (s : State) : Ends (.next s) := ⟨s, rfl⟩

theorem ends_progRead {wa : BitVec 32} {s : State} {k : Word → State → Outcome} (h : ∀ w u, Ends (k w u)) :
    Ends (progRead wa s k) := by
  cases hw : (readProgramMemory wa s).1 with
  | none => rw [progRead_none hw]; exact ends_next _
  | some w => rw [progRead_some hw]; exact h w _

theorem ends_memRead {a : Word} {s : State} {k : Byte → State → Outcome} (h : ∀ b u, Ends (k b u)) :
    Ends (memRead a s k) := by
  cases hb : (readDataMemory a s).1 with
  | none => rw [memRead_none hb]; exact ends_next _
  | some b => rw [memRead_some hb]; exact h b _

theorem ends_memWrite {a : Word} {v : Byte} {s : State} {k : State → Outcome} (h : ∀ u, Ends (k u)) :
    Ends (memWrite a v s k) := by
  cases hb : (writeDataMemory a v s).1 with
  | false => rw [memWrite_false hb]; exact ends_next _
  | true => rw [memWrite_true hb]; exact h _

theorem ends_needs22 {i : Instr} {s : State} {k : State → Outcome} (h : ∀ u, Ends (k u)) : Ends (needs22 i s k) := by
  unfold needs22; split
  · exact ends_next _
  · exact h s

theorem ends_fetchWord {s : State} {k : Word → State → Outcome} (h : ∀ w u, Ends (k w u)) :
    Ends (fetchWord s k) := ends_progRead fun w _ => h w _

theorem ends_skipIf (b : Bool) (s : State) : Ends (skipIf b s) := by
  unfold skipIf; split
  · exact ends_fetchWord fun w u => by split <;> exact ends_next _
  · exact ends_next _

theorem ends_pushRet {a : PcWord} {s : State} {k : State → Outcome} (h : ∀ u, Ends (k u)) : Ends (pushRet a s k) :=
  ends_memWrite fun _ => ends_memWrite fun u => by
    dsimp only
    split
    · exact h _
    · exact ends_memWrite fun _ => h _

theorem ends_popRet {s : State} {k : PcWord → State → Outcome} (h : ∀ a u, Ends (k a u)) : Ends (popRet s k) := by
  unfold popRet; split
  · exact ends_memRead fun _ _ => ends_memRead fun _ _ => h _ _
  · exact ends_memRead fun _ _ => ends_memRead fun _ _ => ends_memRead fun _ _ => h _ _

theorem ends_returnTo {s : State} {k : State → Outcome} (h : ∀ u, Ends (k u)) :
    Ends (returnTo s k) := ends_popRet fun _ _ => h _

theorem unlessOwn_false {i : Instr} {p : Ptr} {r : Reg} (h : p.isByte r = false) (s : State) (k : State → Outcome) :
    unlessOwn i p r s k = k s := by
  unfold unlessOwn; rw [h]

theorem ends_unlessOwn {i : Instr} {p : Ptr} {r : Reg} {s : State} {k : State → Outcome} (h : p.isByte r = false) (hk : Ends (k s)) :
    Ends (unlessOwn i p r s k) := by
  rw [unlessOwn_false h]; exact hk

theorem unlessOwn_true {i : Instr} {p : Ptr} {r : Reg} (h : p.isByte r = true) (s : State) (k : State → Outcome) :
    unlessOwn i p r s k = refuseOwnPointer i s := by
  unfold unlessOwn; rw [h]

end Sys2Proof.Machine
end

