-- ==== Sys2Proof/Laws/PerInstr.lean ====
section
/-! SUPPORT. The family Encoding of LAWS.json: of every instruction, that its words decode to it and that their number is the
length its first word says. -/

namespace Sys2Proof.Laws.Encoding

/-- The words of a well-formed instruction decode to it, whatever follows a one-word instruction, and it has two words
exactly where its first word is long (R100, R122, R126). -/
def Statement (i : Instr) : Prop :=
  i.wellFormed = true →
    (∀ op2, decode (opWord i) ((encode i).getD 1 op2) = some i) ∧
    (encode i).length = if isLong (opWord i) then 2 else 1

/-- An instruction of a one-word row. -/
theorem short_row {i : Instr} (n : Nat) (hn : n < opcodeTable.length)
    (ha : opWord i &&& opcodeTable[n].mask = opcodeTable[n].pattern) (hl : isLong (opWord i) = false)
    (hw : (encode i).length = 1) (hb : ∀ op2, opcodeTable[n].build (opWord i) op2 = i) :
    (∀ op2, decode (opWord i) ((encode i).getD 1 op2) = some i) ∧
    (encode i).length = if isLong (opWord i) then 2 else 1 := by
  refine ⟨fun op2 => ?_, by rw [hl, hw]; rfl⟩
  rw [decode_of_admits (List.getElem_mem hn) (Row.admits_eq.mpr ha), hb]

/-- An instruction of a two-word row. -/
theorem long_row {i : Instr} {k : Word} (n : Nat) (hn : n < opcodeTable.length)
    (ha : opWord i &&& opcodeTable[n].mask = opcodeTable[n].pattern) (hl : isLong (opWord i) = true)
    (hw : encode i = [opWord i, k]) (hb : opcodeTable[n].build (opWord i) k = i) :
    (∀ op2, decode (opWord i) ((encode i).getD 1 op2) = some i) ∧
    (encode i).length = if isLong (opWord i) then 2 else 1 := by
  refine ⟨fun op2 => ?_, by rw [hl, hw]; rfl⟩
  rw [decode_of_admits (List.getElem_mem hn) (Row.admits_eq.mpr ha), hw]
  exact congrArg some hb

theorem nop : Statement (.nop) := by
  intro _
  exact short_row 0 (by decide) (by decide : opWord .nop &&& 0xFFFF#16 = 0x0000#16) (isLong_false (by decide : opWord .nop &&& 0xFFFF#16 = 0x0000#16) (by decide)) rfl fun _ => rfl

theorem movw (d r : Reg) : Statement (.movw d r) := by
  intro h
  simp only [Instr.wellFormed, Bool.and_eq_true] at h
  obtain ⟨ha, e, e'⟩ :=
    two_fields (p := 0x0100#16) (m := 0xFF00#16) (by decide) (putDw_in d) (putRw_in r)
  exact short_row 1 (by decide) ha (isLong_false ha (by decide)) rfl fun _ => congrArg₂ Instr.movw (dw_of h.1 e) (rw_of h.2 e')

theorem muls (d r : Reg) : Statement (.muls d r) := by
  intro h
  simp only [Instr.wellFormed, Bool.and_eq_true] at h
  obtain ⟨ha, e, e'⟩ :=
    two_fields (p := 0x0200#16) (m := 0xFF00#16) (by decide) (putD4_in d) (putR4_in r)
  exact short_row 2 (by decide) ha (isLong_false ha (by decide)) rfl fun _ => congrArg₂ Instr.muls (d4_of h.1 e) (r4_of h.2 e')

theorem mulsu (d r : Reg) : Statement (.mulsu d r) := by
  intro h
  simp only [Instr.wellFormed, Bool.and_eq_true] at h
  obtain ⟨ha, e, e'⟩ :=
    two_fields (p := 0x0300#16) (m := 0xFF88#16) (by decide) (putD3_in d) (putR3_in r)
  exact short_row 3 (by decide) ha (isLong_false ha (by decide)) rfl fun _ => congrArg₂ Instr.mulsu (d3_of h.1 e) (r3_of h.2 e')

theorem fmul (d r : Reg) : Statement (.fmul d r) := by
  intro h
  simp only [Instr.wellFormed, Bool.and_eq_true] at h
  obtain ⟨ha, e, e'⟩ :=
    two_fields (p := 0x0308#16) (m := 0xFF88#16) (by decide) (putD3_in d) (putR3_in r)
  exact short_row 4 (by decide) ha (isLong_false ha (by decide)) rfl fun _ => congrArg₂ Instr.fmul (d3_of h.1 e) (r3_of h.2 e')

theorem fmuls (d r : Reg) : Statement (.fmuls d r) := by
  intro h
  simp only [Instr.wellFormed, Bool.and_eq_true] at h
  obtain ⟨ha, e, e'⟩ :=
    two_fields (p := 0x0380#16) (m := 0xFF88#16) (by decide) (putD3_in d) (putR3_in r)
  exact short_row 5 (by decide) ha (isLong_false ha (by decide)) rfl fun _ => congrArg₂ Instr.fmuls (d3_of h.1 e) (r3_of h.2 e')

theorem fmulsu (d r : Reg) : Statement (.fmulsu d r) := by
  intro h
  simp only [Instr.wellFormed, Bool.and_eq_true] at h
  obtain ⟨ha, e, e'⟩ :=
    two_fields (p := 0x0388#16) (m := 0xFF88#16) (by decide) (putD3_in d) (putR3_in r)
  exact short_row 6 (by decide) ha (isLong_false ha (by decide)) rfl fun _ => congrArg₂ Instr.fmulsu (d3_of h.1 e) (r3_of h.2 e')

theorem cpc (d r : Reg) : Statement (.cpc d r) := by
  intro _
  obtain ⟨ha, e, e'⟩ :=
    two_fields (p := 0x0400#16) (m := 0xFC00#16) (by decide) (putD5_in d) (putR5_in r)
  exact short_row 7 (by decide) ha (isLong_false ha (by decide)) rfl fun _ => congrArg₂ Instr.cpc (d5_of e) (r5_of e')

theorem sbc (d r : Reg) : Statement (.sbc d r) := by
  intro _
  obtain ⟨ha, e, e'⟩ :=
    two_fields (p := 0x0800#16) (m := 0xFC00#16) (by decide) (putD5_in d) (putR5_in r)
  exact short_row 8 (by decide) ha (isLong_false ha (by decide)) rfl fun _ => congrArg₂ Instr.sbc (d5_of e) (r5_of e')

theorem add (d r : Reg) : Statement (.add d r) := by
  intro _
  obtain ⟨ha, e, e'⟩ :=
    two_fields (p := 0x0C00#16) (m := 0xFC00#16) (by decide) (putD5_in d) (putR5_in r)
  exact short_row 9 (by decide) ha (isLong_false ha (by decide)) rfl fun _ => congrArg₂ Instr.add (d5_of e) (r5_of e')

theorem cpse (d r : Reg) : Statement (.cpse d r) := by
  intro _
  obtain ⟨ha, e, e'⟩ :=
    two_fields (p := 0x1000#16) (m := 0xFC00#16) (by decide) (putD5_in d) (putR5_in r)
  exact short_row 10 (by decide) ha (isLong_false ha (by decide)) rfl fun _ => congrArg₂ Instr.cpse (d5_of e) (r5_of e')

theorem cp (d r : Reg) : Statement (.cp d r) := by
  intro _
  obtain ⟨ha, e, e'⟩ :=
    two_fields (p := 0x1400#16) (m := 0xFC00#16) (by decide) (putD5_in d) (putR5_in r)
  exact short_row 11 (by decide) ha (isLong_false ha (by decide)) rfl fun _ => congrArg₂ Instr.cp (d5_of e) (r5_of e')

theorem sub (d r : Reg) : Statement (.sub d r) := by
  intro _
  obtain ⟨ha, e, e'⟩ :=
    two_fields (p := 0x1800#16) (m := 0xFC00#16) (by decide) (putD5_in d) (putR5_in r)
  exact short_row 12 (by decide) ha (isLong_false ha (by decide)) rfl fun _ => congrArg₂ Instr.sub (d5_of e) (r5_of e')

theorem adc (d r : Reg) : Statement (.adc d r) := by
  intro _
  obtain ⟨ha, e, e'⟩ :=
    two_fields (p := 0x1C00#16) (m := 0xFC00#16) (by decide) (putD5_in d) (putR5_in r)
  exact short_row 13 (by decide) ha (isLong_false ha (by decide)) rfl fun _ => congrArg₂ Instr.adc (d5_of e) (r5_of e')

theorem and (d r : Reg) : Statement (.and d r) := by
  intro _
  obtain ⟨ha, e, e'⟩ :=
    two_fields (p := 0x2000#16) (m := 0xFC00#16) (by decide) (putD5_in d) (putR5_in r)
  exact short_row 14 (by decide) ha (isLong_false ha (by decide)) rfl fun _ => congrArg₂ Instr.and (d5_of e) (r5_of e')

theorem eor (d r : Reg) : Statement (.eor d r) := by
  intro _
  obtain ⟨ha, e, e'⟩ :=
    two_fields (p := 0x2400#16) (m := 0xFC00#16) (by decide) (putD5_in d) (putR5_in r)
  exact short_row 15 (by decide) ha (isLong_false ha (by decide)) rfl fun _ => congrArg₂ Instr.eor (d5_of e) (r5_of e')

theorem or (d r : Reg) : Statement (.or d r) := by
  intro _
  obtain ⟨ha, e, e'⟩ :=
    two_fields (p := 0x2800#16) (m := 0xFC00#16) (by decide) (putD5_in d) (putR5_in r)
  exact short_row 16 (by decide) ha (isLong_false ha (by decide)) rfl fun _ => congrArg₂ Instr.or (d5_of e) (r5_of e')

theorem mov (d r : Reg) : Statement (.mov d r) := by
  intro _
  obtain ⟨ha, e, e'⟩ :=
    two_fields (p := 0x2C00#16) (m := 0xFC00#16) (by decide) (putD5_in d) (putR5_in r)
  exact short_row 17 (by decide) ha (isLong_false ha (by decide)) rfl fun _ => congrArg₂ Instr.mov (d5_of e) (r5_of e')

theorem cpi (d : Reg) (k : Byte) : Statement (.cpi d k) := by
  intro h
  obtain ⟨ha, e, e'⟩ :=
    two_fields (p := 0x3000#16) (m := 0xF000#16) (by decide) (putD4_in d) (putK8_in k)
  exact short_row 18 (by decide) ha (isLong_false ha (by decide)) rfl fun _ => congrArg₂ Instr.cpi (d4_of h e) (k8_of e')

theorem sbci (d : Reg) (k : Byte) : Statement (.sbci d k) := by
  intro h
  obtain ⟨ha, e, e'⟩ :=
    two_fields (p := 0x4000#16) (m := 0xF000#16) (by decide) (putD4_in d) (putK8_in k)
  exact short_row 19 (by decide) ha (isLong_false ha (by decide)) rfl fun _ => congrArg₂ Instr.sbci (d4_of h e) (k8_of e')

theorem subi (d : Reg) (k : Byte) : Statement (.subi d k) := by
  intro h
  obtain ⟨ha, e, e'⟩ :=
    two_fields (p := 0x5000#16) (m := 0xF000#16) (by decide) (putD4_in d) (putK8_in k)
  exact short_row 20 (by decide) ha (isLong_false ha (by decide)) rfl fun _ => congrArg₂ Instr.subi (d4_of h e) (k8_of e')

theorem ori (d : Reg) (k : Byte) : Statement (.ori d k) := by
  intro h
  obtain ⟨ha, e, e'⟩ :=
    two_fields (p := 0x6000#16) (m := 0xF000#16) (by decide) (putD4_in d) (putK8_in k)
  exact short_row 21 (by decide) ha (isLong_false ha (by decide)) rfl fun _ => congrArg₂ Instr.ori (d4_of h e) (k8_of e')

theorem andi (d : Reg) (k : Byte) : Statement (.andi d k) := by
  intro h
  obtain ⟨ha, e, e'⟩ :=
    two_fields (p := 0x7000#16) (m := 0xF000#16) (by decide) (putD4_in d) (putK8_in k)
  exact short_row 22 (by decide) ha (isLong_false ha (by decide)) rfl fun _ => congrArg₂ Instr.andi (d4_of h e) (k8_of e')

theorem lddZ (d : Reg) (q : BitVec 6) : Statement (.lddZ d q) := by
  intro _
  obtain ⟨ha, e, e'⟩ :=
    two_fields (p := 0x8000#16) (m := 0xD208#16) (by decide) (putD5_in d) (putQ6_in q)
  exact short_row 23 (by decide) ha (isLong_false ha (by decide)) rfl fun _ => congrArg₂ Instr.lddZ (d5_of e) (q6_of e')

theorem lddY (d : Reg) (q : BitVec 6) : Statement (.lddY d q) := by
  intro _
  obtain ⟨ha, e, e'⟩ :=
    two_fields (p := 0x8008#16) (m := 0xD208#16) (by decide) (putD5_in d) (putQ6_in q)
  exact short_row 24 (by decide) ha (isLong_false ha (by decide)) rfl fun _ => congrArg₂ Instr.lddY (d5_of e) (q6_of e')

theorem stdZ (q : BitVec 6) (r : Reg) : Statement (.stdZ q r) := by
  intro _
  obtain ⟨ha, e, e'⟩ :=
    two_fields (p := 0x8200#16) (m := 0xD208#16) (by decide) (putD5_in r) (putQ6_in q)
  exact short_row 25 (by decide) ha (isLong_false ha (by decide)) rfl fun _ => congrArg₂ Instr.stdZ (q6_of e') (d5_of e)

theorem stdY (q : BitVec 6) (r : Reg) : Statement (.stdY q r) := by
  intro _
  obtain ⟨ha, e, e'⟩ :=
    two_fields (p := 0x8208#16) (m := 0xD208#16) (by decide) (putD5_in r) (putQ6_in q)
  exact short_row 26 (by decide) ha (isLong_false ha (by decide)) rfl fun _ => congrArg₂ Instr.stdY (q6_of e') (d5_of e)

theorem lds (d : Reg) (k : Word) : Statement (.lds d k) := by
  intro _
  obtain ⟨ha, e⟩ := one_field (p := 0x9000#16) (m := 0xFE0F#16) (by decide) (putD5_in d)
  exact long_row 27 (by decide) ha (isLong_direct ha (by decide) (by decide)) rfl (congrArg₂ Instr.lds (d5_of e) rfl)

theorem ldZInc (d : Reg) : Statement (.ldZInc d) := by
  intro _
  obtain ⟨ha, e⟩ := one_field (p := 0x9001#16) (m := 0xFE0F#16) (by decide) (putD5_in d)
  exact short_row 28 (by decide) ha (isLong_false ha (by decide)) rfl fun _ => congrArg Instr.ldZInc (d5_of e)

theorem ldZDec (d : Reg) : Statement (.ldZDec d) := by
  intro _
  obtain ⟨ha, e⟩ := one_field (p := 0x9002#16) (m := 0xFE0F#16) (by decide) (putD5_in d)
  exact short_row 29 (by decide) ha (isLong_false ha (by decide)) rfl fun _ => congrArg Instr.ldZDec (d5_of e)

theorem lpmZ (d : Reg) : Statement (.lpmZ d) := by
  intro _
  obtain ⟨ha, e⟩ := one_field (p := 0x9004#16) (m := 0xFE0F#16) (by decide) (putD5_in d)
  exact short_row 30 (by decide) ha (isLong_false ha (by decide)) rfl fun _ => congrArg Instr.lpmZ (d5_of e)

theorem lpmZInc (d : Reg) : Statement (.lpmZInc d) := by
  intro _
  obtain ⟨ha, e⟩ := one_field (p := 0x9005#16) (m := 0xFE0F#16) (by decide) (putD5_in d)
  exact short_row 31 (by decide) ha (isLong_false ha (by decide)) rfl fun _ => congrArg Instr.lpmZInc (d5_of e)

theorem elpmZ (d : Reg) : Statement (.elpmZ d) := by
  intro _
  obtain ⟨ha, e⟩ := one_field (p := 0x9006#16) (m := 0xFE0F#16) (by decide) (putD5_in d)
  exact short_row 32 (by decide) ha (isLong_false ha (by decide)) rfl fun _ => congrArg Instr.elpmZ (d5_of e)

theorem elpmZInc (d : Reg) : Statement (.elpmZInc d) := by
  intro _
  obtain ⟨ha, e⟩ := one_field (p := 0x9007#16) (m := 0xFE0F#16) (by decide) (putD5_in d)
  exact short_row 33 (by decide) ha (isLong_false ha (by decide)) rfl fun _ => congrArg Instr.elpmZInc (d5_of e)

theorem ldYInc (d : Reg) : Statement (.ldYInc d) := by
  intro _
  obtain ⟨ha, e⟩ := one_field (p := 0x9009#16) (m := 0xFE0F#16) (by decide) (putD5_in d)
  exact short_row 34 (by decide) ha (isLong_false ha (by decide)) rfl fun _ => congrArg Instr.ldYInc (d5_of e)

theorem ldYDec (d : Reg) : Statement (.ldYDec d) := by
  intro _
  obtain ⟨ha, e⟩ := one_field (p := 0x900A#16) (m := 0xFE0F#16) (by decide) (putD5_in d)
  exact short_row 35 (by decide) ha (isLong_false ha (by decide)) rfl fun _ => congrArg Instr.ldYDec (d5_of e)

theorem ldX (d : Reg) : Statement (.ldX d) := by
  intro _
  obtain ⟨ha, e⟩ := one_field (p := 0x900C#16) (m := 0xFE0F#16) (by decide) (putD5_in d)
  exact short_row 36 (by decide) ha (isLong_false ha (by decide)) rfl fun _ => congrArg Instr.ldX (d5_of e)

theorem ldXInc (d : Reg) : Statement (.ldXInc d) := by
  intro _
  obtain ⟨ha, e⟩ := one_field (p := 0x900D#16) (m := 0xFE0F#16) (by decide) (putD5_in d)
  exact short_row 37 (by decide) ha (isLong_false ha (by decide)) rfl fun _ => congrArg Instr.ldXInc (d5_of e)

theorem ldXDec (d : Reg) : Statement (.ldXDec d) := by
  intro _
  obtain ⟨ha, e⟩ := one_field (p := 0x900E#16) (m := 0xFE0F#16) (by decide) (putD5_in d)
  exact short_row 38 (by decide) ha (isLong_false ha (by decide)) rfl fun _ => congrArg Instr.ldXDec (d5_of e)

theorem pop (d : Reg) : Statement (.pop d) := by
  intro _
  obtain ⟨ha, e⟩ := one_field (p := 0x900F#16) (m := 0xFE0F#16) (by decide) (putD5_in d)
  exact short_row 39 (by decide) ha (isLong_false ha (by decide)) rfl fun _ => congrArg Instr.pop (d5_of e)

theorem sts (k : Word) (r : Reg) : Statement (.sts k r) := by
  intro _
  obtain ⟨ha, e⟩ := one_field (p := 0x9200#16) (m := 0xFE0F#16) (by decide) (putD5_in r)
  exact long_row 40 (by decide) ha (isLong_direct ha (by decide) (by decide)) rfl (congrArg₂ Instr.sts rfl (d5_of e))

theorem stZInc (r : Reg) : Statement (.stZInc r) := by
  intro _
  obtain ⟨ha, e⟩ := one_field (p := 0x9201#16) (m := 0xFE0F#16) (by decide) (putD5_in r)
  exact short_row 41 (by decide) ha (isLong_false ha (by decide)) rfl fun _ => congrArg Instr.stZInc (d5_of e)

theorem stZDec (r : Reg) : Statement (.stZDec r) := by
  intro _
  obtain ⟨ha, e⟩ := one_field (p := 0x9202#16) (m := 0xFE0F#16) (by decide) (putD5_in r)
  exact short_row 42 (by decide) ha (isLong_false ha (by decide)) rfl fun _ => congrArg Instr.stZDec (d5_of e)

theorem xch (d : Reg) : Statement (.xch d) := by
  intro _
  obtain ⟨ha, e⟩ := one_field (p := 0x9204#16) (m := 0xFE0F#16) (by decide) (putD5_in d)
  exact short_row 43 (by decide) ha (isLong_false ha (by decide)) rfl fun _ => congrArg Instr.xch (d5_of e)

theorem las (d : Reg) : Statement (.las d) := by
  intro _
  obtain ⟨ha, e⟩ := one_field (p := 0x9205#16) (m := 0xFE0F#16) (by decide) (putD5_in d)
  exact short_row 44 (by decide) ha (isLong_false ha (by decide)) rfl fun _ => congrArg Instr.las (d5_of e)

theorem lac (d : Reg) : Statement (.lac d) := by
  intro _
  obtain ⟨ha, e⟩ := one_field (p := 0x9206#16) (m := 0xFE0F#16) (by decide) (putD5_in d)
  exact short_row 45 (by decide) ha (isLong_false ha (by decide)) rfl fun _ => congrArg Instr.lac (d5_of e)

theorem lat (d : Reg) : Statement (.lat d) := by
  intro _
  obtain ⟨ha, e⟩ := one_field (p := 0x9207#16) (m := 0xFE0F#16) (by decide) (putD5_in d)
  exact short_row 46 (by decide) ha (isLong_false ha (by decide)) rfl fun _ => congrArg Instr.lat (d5_of e)

theorem stYInc (r : Reg) : Statement (.stYInc r) := by
  intro _
  obtain ⟨ha, e⟩ := one_field (p := 0x9209#16) (m := 0xFE0F#16) (by decide) (putD5_in r)
  exact short_row 47 (by decide) ha (isLong_false ha (by decide)) rfl fun _ => congrArg Instr.stYInc (d5_of e)

theorem stYDec (r : Reg) : Statement (.stYDec r) := by
  intro _
  obtain ⟨ha, e⟩ := one_field (p := 0x920A#16) (m := 0xFE0F#16) (by decide) (putD5_in r)
  exact short_row 48 (by decide) ha (isLong_false ha (by decide)) rfl fun _ => congrArg Instr.stYDec (d5_of e)

theorem stX (r : Reg) : Statement (.stX r) := by
  intro _
  obtain ⟨ha, e⟩ := one_field (p := 0x920C#16) (m := 0xFE0F#16) (by decide) (putD5_in r)
  exact short_row 49 (by decide) ha (isLong_false ha (by decide)) rfl fun _ => congrArg Instr.stX (d5_of e)

theorem stXInc (r : Reg) : Statement (.stXInc r) := by
  intro _
  obtain ⟨ha, e⟩ := one_field (p := 0x920D#16) (m := 0xFE0F#16) (by decide) (putD5_in r)
  exact short_row 50 (by decide) ha (isLong_false ha (by decide)) rfl fun _ => congrArg Instr.stXInc (d5_of e)

theorem stXDec (r : Reg) : Statement (.stXDec r) := by
  intro _
  obtain ⟨ha, e⟩ := one_field (p := 0x920E#16) (m := 0xFE0F#16) (by decide) (putD5_in r)
  exact short_row 51 (by decide) ha (isLong_false ha (by decide)) rfl fun _ => congrArg Instr.stXDec (d5_of e)

theorem push (r : Reg) : Statement (.push r) := by
  intro _
  obtain ⟨ha, e⟩ := one_field (p := 0x920F#16) (m := 0xFE0F#16) (by decide) (putD5_in r)
  exact short_row 52 (by decide) ha (isLong_false ha (by decide)) rfl fun _ => congrArg Instr.push (d5_of e)

theorem com (d : Reg) : Statement (.com d) := by
  intro _
  obtain ⟨ha, e⟩ := one_field (p := 0x9400#16) (m := 0xFE0F#16) (by decide) (putD5_in d)
  exact short_row 53 (by decide) ha (isLong_false ha (by decide)) rfl fun _ => congrArg Instr.com (d5_of e)

theorem neg (d : Reg) : Statement (.neg d) := by
  intro _
  obtain ⟨ha, e⟩ := one_field (p := 0x9401#16) (m := 0xFE0F#16) (by decide) (putD5_in d)
  exact short_row 54 (by decide) ha (isLong_false ha (by decide)) rfl fun _ => congrArg Instr.neg (d5_of e)

theorem swap (d : Reg) : Statement (.swap d) := by
  intro _
  obtain ⟨ha, e⟩ := one_field (p := 0x9402#16) (m := 0xFE0F#16) (by decide) (putD5_in d)
  exact short_row 55 (by decide) ha (isLong_false ha (by decide)) rfl fun _ => congrArg Instr.swap (d5_of e)

theorem inc (d : Reg) : Statement (.inc d) := by
  intro _
  obtain ⟨ha, e⟩ := one_field (p := 0x9403#16) (m := 0xFE0F#16) (by decide) (putD5_in d)
  exact short_row 56 (by decide) ha (isLong_false ha (by decide)) rfl fun _ => congrArg Instr.inc (d5_of e)

theorem asr (d : Reg) : Statement (.asr d) := by
  intro _
  obtain ⟨ha, e⟩ := one_field (p := 0x9405#16) (m := 0xFE0F#16) (by decide) (putD5_in d)
  exact short_row 57 (by decide) ha (isLong_false ha (by decide)) rfl fun _ => congrArg Instr.asr (d5_of e)

theorem lsr (d : Reg) : Statement (.lsr d) := by
  intro _
  obtain ⟨ha, e⟩ := one_field (p := 0x9406#16) (m := 0xFE0F#16) (by decide) (putD5_in d)
  exact short_row 58 (by decide) ha (isLong_false ha (by decide)) rfl fun _ => congrArg Instr.lsr (d5_of e)

theorem ror (d : Reg) : Statement (.ror d) := by
  intro _
  obtain ⟨ha, e⟩ := one_field (p := 0x9407#16) (m := 0xFE0F#16) (by decide) (putD5_in d)
  exact short_row 59 (by decide) ha (isLong_false ha (by decide)) rfl fun _ => congrArg Instr.ror (d5_of e)

theorem dec (d : Reg) : Statement (.dec d) := by
  intro _
  obtain ⟨ha, e⟩ := one_field (p := 0x940A#16) (m := 0xFE0F#16) (by decide) (putD5_in d)
  exact short_row 60 (by decide) ha (isLong_false ha (by decide)) rfl fun _ => congrArg Instr.dec (d5_of e)

theorem bset (b : BitNo) : Statement (.bset b) := by
  intro _
  obtain ⟨ha, e⟩ := one_field (p := 0x9408#16) (m := 0xFF8F#16) (by decide) (putS3_in b)
  exact short_row 61 (by decide) ha (isLong_false ha (by decide)) rfl fun _ => congrArg Instr.bset (s3_of e)

theorem bclr (b : BitNo) : Statement (.bclr b) := by
  intro _
  obtain ⟨ha, e⟩ := one_field (p := 0x9488#16) (m := 0xFF8F#16) (by decide) (putS3_in b)
  exact short_row 62 (by decide) ha (isLong_false ha (by decide)) rfl fun _ => congrArg Instr.bclr (s3_of e)

theorem ijmp : Statement (.ijmp) := by
  intro _
  exact short_row 63 (by decide) (by decide : opWord .ijmp &&& 0xFFFF#16 = 0x9409#16) (isLong_false (by decide : opWord .ijmp &&& 0xFFFF#16 = 0x9409#16) (by decide)) rfl fun _ => rfl

theorem eijmp : Statement (.eijmp) := by
  intro _
  exact short_row 64 (by decide) (by decide : opWord .eijmp &&& 0xFFFF#16 = 0x9419#16) (isLong_false (by decide : opWord .eijmp &&& 0xFFFF#16 = 0x9419#16) (by decide)) rfl fun _ => rfl

theorem des (k : BitVec 4) : Statement (.des k) := by
  intro _
  obtain ⟨ha, e⟩ := one_field (p := 0x940B#16) (m := 0xFF0F#16) (by decide) (putK4_in k)
  exact short_row 65 (by decide) ha (isLong_false ha (by decide)) rfl fun _ => congrArg Instr.des (k4_of e)

theorem ret : Statement (.ret) := by
  intro _
  exact short_row 66 (by decide) (by decide : opWord .ret &&& 0xFFFF#16 = 0x9508#16) (isLong_false (by decide : opWord .ret &&& 0xFFFF#16 = 0x9508#16) (by decide)) rfl fun _ => rfl

theorem reti : Statement (.reti) := by
  intro _
  exact short_row 67 (by decide) (by decide : opWord .reti &&& 0xFFFF#16 = 0x9518#16) (isLong_false (by decide : opWord .reti &&& 0xFFFF#16 = 0x9518#16) (by decide)) rfl fun _ => rfl

theorem sleep : Statement (.sleep) := by
  intro _
  exact short_row 68 (by decide) (by decide : opWord .sleep &&& 0xFFFF#16 = 0x9588#16) (isLong_false (by decide : opWord .sleep &&& 0xFFFF#16 = 0x9588#16) (by decide)) rfl fun _ => rfl

theorem brk : Statement (.brk) := by
  intro _
  exact short_row 69 (by decide) (by decide : opWord .brk &&& 0xFFFF#16 = 0x9598#16) (isLong_false (by decide : opWord .brk &&& 0xFFFF#16 = 0x9598#16) (by decide)) rfl fun _ => rfl

theorem wdr : Statement (.wdr) := by
  intro _
  exact short_row 70 (by decide) (by decide : opWord .wdr &&& 0xFFFF#16 = 0x95A8#16) (isLong_false (by decide : opWord .wdr &&& 0xFFFF#16 = 0x95A8#16) (by decide)) rfl fun _ => rfl

theorem lpm : Statement (.lpm) := by
  intro _
  exact short_row 71 (by decide) (by decide : opWord .lpm &&& 0xFFFF#16 = 0x95C8#16) (isLong_false (by decide : opWord .lpm &&& 0xFFFF#16 = 0x95C8#16) (by decide)) rfl fun _ => rfl

theorem elpm : Statement (.elpm) := by
  intro _
  exact short_row 72 (by decide) (by decide : opWord .elpm &&& 0xFFFF#16 = 0x95D8#16) (isLong_false (by decide : opWord .elpm &&& 0xFFFF#16 = 0x95D8#16) (by decide)) rfl fun _ => rfl

theorem spm : Statement (.spm) := by
  intro _
  exact short_row 73 (by decide) (by decide : opWord .spm &&& 0xFFFF#16 = 0x95E8#16) (isLong_false (by decide : opWord .spm &&& 0xFFFF#16 = 0x95E8#16) (by decide)) rfl fun _ => rfl

theorem spmZInc : Statement (.spmZInc) := by
  intro _
  exact short_row 74 (by decide) (by decide : opWord .spmZInc &&& 0xFFFF#16 = 0x95F8#16) (isLong_false (by decide : opWord .spmZInc &&& 0xFFFF#16 = 0x95F8#16) (by decide)) rfl fun _ => rfl

theorem icall : Statement (.icall) := by
  intro _
  exact short_row 75 (by decide) (by decide : opWord .icall &&& 0xFFFF#16 = 0x9509#16) (isLong_false (by decide : opWord .icall &&& 0xFFFF#16 = 0x9509#16) (by decide)) rfl fun _ => rfl

theorem eicall : Statement (.eicall) := by
  intro _
  exact short_row 76 (by decide) (by decide : opWord .eicall &&& 0xFFFF#16 = 0x9519#16) (isLong_false (by decide : opWord .eicall &&& 0xFFFF#16 = 0x9519#16) (by decide)) rfl fun _ => rfl

theorem jmp (k : BitVec 22) : Statement (.jmp k) := by
  intro _
  obtain ⟨ha, e⟩ := one_field (p := 0x940C#16) (m := 0xFE0E#16) (by decide) (putK22_in k)
  exact long_row 77 (by decide) ha (isLong_jump ha (by decide) (by decide)) rfl (congrArg Instr.jmp (k22_of e))

theorem call (k : BitVec 22) : Statement (.call k) := by
  intro _
  obtain ⟨ha, e⟩ := one_field (p := 0x940E#16) (m := 0xFE0E#16) (by decide) (putK22_in k)
  exact long_row 78 (by decide) ha (isLong_jump ha (by decide) (by decide)) rfl (congrArg Instr.call (k22_of e))

theorem adiw (d : Reg) (k : BitVec 6) : Statement (.adiw d k) := by
  intro h
  obtain ⟨ha, e, e'⟩ :=
    two_fields (p := 0x9600#16) (m := 0xFF00#16) (by decide) (putDp_in d) (putK6_in k)
  exact short_row 79 (by decide) ha (isLong_false ha (by decide)) rfl fun _ => congrArg₂ Instr.adiw (dp_of h e) (k6_of e')

theorem sbiw (d : Reg) (k : BitVec 6) : Statement (.sbiw d k) := by
  intro h
  obtain ⟨ha, e, e'⟩ :=
    two_fields (p := 0x9700#16) (m := 0xFF00#16) (by decide) (putDp_in d) (putK6_in k)
  exact short_row 80 (by decide) ha (isLong_false ha (by decide)) rfl fun _ => congrArg₂ Instr.sbiw (dp_of h e) (k6_of e')

theorem cbi (a : BitVec 5) (b : BitNo) : Statement (.cbi a b) := by
  intro _
  obtain ⟨ha, e, e'⟩ :=
    two_fields (p := 0x9800#16) (m := 0xFF00#16) (by decide) (putA5_in a) (putB3_in b)
  exact short_row 81 (by decide) ha (isLong_false ha (by decide)) rfl fun _ => congrArg₂ Instr.cbi (a5_of e) (b3_of e')

theorem sbic (a : BitVec 5) (b : BitNo) : Statement (.sbic a b) := by
  intro _
  obtain ⟨ha, e, e'⟩ :=
    two_fields (p := 0x9900#16) (m := 0xFF00#16) (by decide) (putA5_in a) (putB3_in b)
  exact short_row 82 (by decide) ha (isLong_false ha (by decide)) rfl fun _ => congrArg₂ Instr.sbic (a5_of e) (b3_of e')

theorem sbi (a : BitVec 5) (b : BitNo) : Statement (.sbi a b) := by
  intro _
  obtain ⟨ha, e, e'⟩ :=
    two_fields (p := 0x9A00#16) (m := 0xFF00#16) (by decide) (putA5_in a) (putB3_in b)
  exact short_row 83 (by decide) ha (isLong_false ha (by decide)) rfl fun _ => congrArg₂ Instr.sbi (a5_of e) (b3_of e')

theorem sbis (a : BitVec 5) (b : BitNo) : Statement (.sbis a b) := by
  intro _
  obtain ⟨ha, e, e'⟩ :=
    two_fields (p := 0x9B00#16) (m := 0xFF00#16) (by decide) (putA5_in a) (putB3_in b)
  exact short_row 84 (by decide) ha (isLong_false ha (by decide)) rfl fun _ => congrArg₂ Instr.sbis (a5_of e) (b3_of e')

theorem mul (d r : Reg) : Statement (.mul d r) := by
  intro _
  obtain ⟨ha, e, e'⟩ :=
    two_fields (p := 0x9C00#16) (m := 0xFC00#16) (by decide) (putD5_in d) (putR5_in r)
  exact short_row 85 (by decide) ha (isLong_false ha (by decide)) rfl fun _ => congrArg₂ Instr.mul (d5_of e) (r5_of e')

theorem inIo (d : Reg) (a : BitVec 6) : Statement (.inIo d a) := by
  intro _
  obtain ⟨ha, e, e'⟩ :=
    two_fields (p := 0xB000#16) (m := 0xF800#16) (by decide) (putD5_in d) (putA6_in a)
  exact short_row 86 (by decide) ha (isLong_false ha (by decide)) rfl fun _ => congrArg₂ Instr.inIo (d5_of e) (a6_of e')

theorem outIo (a : BitVec 6) (r : Reg) : Statement (.outIo a r) := by
  intro _
  obtain ⟨ha, e, e'⟩ :=
    two_fields (p := 0xB800#16) (m := 0xF800#16) (by decide) (putD5_in r) (putA6_in a)
  exact short_row 87 (by decide) ha (isLong_false ha (by decide)) rfl fun _ => congrArg₂ Instr.outIo (a6_of e') (d5_of e)

theorem rjmp (k : BitVec 12) : Statement (.rjmp k) := by
  intro _
  obtain ⟨ha, e⟩ := one_field (p := 0xC000#16) (m := 0xF000#16) (by decide) (putK12_in k)
  exact short_row 88 (by decide) ha (isLong_false ha (by decide)) rfl fun _ => congrArg Instr.rjmp (k12_of e)

theorem rcall (k : BitVec 12) : Statement (.rcall k) := by
  intro _
  obtain ⟨ha, e⟩ := one_field (p := 0xD000#16) (m := 0xF000#16) (by decide) (putK12_in k)
  exact short_row 89 (by decide) ha (isLong_false ha (by decide)) rfl fun _ => congrArg Instr.rcall (k12_of e)

theorem ldi (d : Reg) (k : Byte) : Statement (.ldi d k) := by
  intro h
  obtain ⟨ha, e, e'⟩ :=
    two_fields (p := 0xE000#16) (m := 0xF000#16) (by decide) (putD4_in d) (putK8_in k)
  exact short_row 90 (by decide) ha (isLong_false ha (by decide)) rfl fun _ => congrArg₂ Instr.ldi (d4_of h e) (k8_of e')

theorem brbs (b : BitNo) (k : BitVec 7) : Statement (.brbs b k) := by
  intro _
  obtain ⟨ha, e, e'⟩ :=
    two_fields (p := 0xF000#16) (m := 0xFC00#16) (by decide) (putB3_in b) (putK7_in k)
  exact short_row 91 (by decide) ha (isLong_false ha (by decide)) rfl fun _ => congrArg₂ Instr.brbs (b3_of e) (k7_of e')

theorem brbc (b : BitNo) (k : BitVec 7) : Statement (.brbc b k) := by
  intro _
  obtain ⟨ha, e, e'⟩ :=
    two_fields (p := 0xF400#16) (m := 0xFC00#16) (by decide) (putB3_in b) (putK7_in k)
  exact short_row 92 (by decide) ha (isLong_false ha (by decide)) rfl fun _ => congrArg₂ Instr.brbc (b3_of e) (k7_of e')

theorem bld (d : Reg) (b : BitNo) : Statement (.bld d b) := by
  intro _
  obtain ⟨ha, e, e'⟩ :=
    two_fields (p := 0xF800#16) (m := 0xFE08#16) (by decide) (putD5_in d) (putB3_in b)
  exact short_row 93 (by decide) ha (isLong_false ha (by decide)) rfl fun _ => congrArg₂ Instr.bld (d5_of e) (b3_of e')

theorem bst (d : Reg) (b : BitNo) : Statement (.bst d b) := by
  intro _
  obtain ⟨ha, e, e'⟩ :=
    two_fields (p := 0xFA00#16) (m := 0xFE08#16) (by decide) (putD5_in d) (putB3_in b)
  exact short_row 94 (by decide) ha (isLong_false ha (by decide)) rfl fun _ => congrArg₂ Instr.bst (d5_of e) (b3_of e')

theorem sbrc (r : Reg) (b : BitNo) : Statement (.sbrc r b) := by
  intro _
  obtain ⟨ha, e, e'⟩ :=
    two_fields (p := 0xFC00#16) (m := 0xFE08#16) (by decide) (putD5_in r) (putB3_in b)
  exact short_row 95 (by decide) ha (isLong_false ha (by decide)) rfl fun _ => congrArg₂ Instr.sbrc (d5_of e) (b3_of e')

theorem sbrs (r : Reg) (b : BitNo) : Statement (.sbrs r b) := by
  intro _
  obtain ⟨ha, e, e'⟩ :=
    two_fields (p := 0xFE00#16) (m := 0xFE08#16) (by decide) (putD5_in r) (putB3_in b)
  exact short_row 96 (by decide) ha (isLong_false ha (by decide)) rfl fun _ => congrArg₂ Instr.sbrs (d5_of e) (b3_of e')

end Sys2Proof.Laws.Encoding
end

