-- ==== Sys2Proof/Laws/Step.lean ====
section
/-! SUPPORT. What a Step can do, said once: one lemma over all 97 instructions that carries a property through every update
an instruction makes to both ends of the step, and the same of the whole Step. Every invariant and every whole-machine rule
is an instance of it. -/

namespace Sys2Proof.Machine

/-- What an instruction may write (Safety.lean). -/
def footprint (i : Instr) : Footprint where
  reg j  := writesReg i j = true
  flag k := writesFlag i k = true
  sp     := usesStack i = true
  rampz  := ∃ d, i = .elpmZInc d

theorem callCost_pos (w : PcWidth) : 1 ≤ callCost w := by cases w <;> decide
theorem callCost_le (w : PcWidth) : callCost w ≤ 5 := by cases w <;> decide
theorem longCallCost_pos (w : PcWidth) : 1 ≤ longCallCost w := by cases w <;> decide
theorem longCallCost_le (w : PcWidth) : longCallCost w ≤ 5 := by cases w <;> decide
theorem returnCost_pos (w : PcWidth) : 1 ≤ returnCost w := by cases w <;> decide
theorem returnCost_le (w : PcWidth) : returnCost w ≤ 5 := by cases w <;> decide

theorem or_left {a b : Bool} (h : a = true) : (a || b) = true := by rw [h]; rfl
theorem or_right {a b : Bool} (h : b = true) : (a || b) = true := by rw [h, Bool.or_true]

namespace Closed

variable {A : Footprint} {P Q : State → Prop} (h : Closed A P Q)
include h

theorem keeps_execBrbs {s : State} (b : BitNo) (k : BitVec 7) (hs : P s) : Keeps Q (execBrbs b k s) := by
  unfold execBrbs
  split
  · exact h.keeps_finish 2 (by decide) (by decide) (h.setPc _ _ hs)
  · exact h.keeps_finish 1 (by decide) (by decide) hs

theorem keeps_execBrbc {s : State} (b : BitNo) (k : BitVec 7) (hs : P s) : Keeps Q (execBrbc b k s) := by
  unfold execBrbc
  split
  · exact h.keeps_finish 1 (by decide) (by decide) hs
  · exact h.keeps_finish 2 (by decide) (by decide) (h.setPc _ _ hs)

omit h in
/-- Every next state of an instruction has `Q`, where the state it runs in has `P` and `P` is kept by every update of the
instruction's footprint; SLEEP, the one instruction that writes the sleep bit, keeps `P` by hypothesis. -/
theorem keeps_exec {s : State} (i : Instr) (h : Closed (footprint i) P Q) (hs : P s)
    (hsleep : i = .sleep → P { s with asleep := true }) : Keeps Q (exec i s) := by
  cases i with
  | nop =>
    show Keeps Q (execNop s)
    exact h.keeps_finish 1 (by decide) (by decide) hs
  | movw d r =>
    show Keeps Q (execMovw d r s)
    exact h.keeps_finish 1 (by decide) (by decide) (h.setPair _ _ (or_left (beq_self_eq_true d)) (or_right (beq_self_eq_true (d + 1))) hs)
  | muls d r =>
    show Keeps Q (execMuls d r s)
    exact h.keeps_writeProduct _ _ rfl rfl (fun _ hk => mulFlags_kept hk) hs
  | mulsu d r =>
    show Keeps Q (execMulsu d r s)
    exact h.keeps_writeProduct _ _ rfl rfl (fun _ hk => mulFlags_kept hk) hs
  | fmul d r =>
    show Keeps Q (execFmul d r s)
    exact h.keeps_writeProduct _ _ rfl rfl (fun _ hk => mulFlags_kept hk) hs
  | fmuls d r =>
    show Keeps Q (execFmuls d r s)
    exact h.keeps_writeProduct _ _ rfl rfl (fun _ hk => mulFlags_kept hk) hs
  | fmulsu d r =>
    show Keeps Q (execFmulsu d r s)
    exact h.keeps_writeProduct _ _ rfl rfl (fun _ hk => mulFlags_kept hk) hs
  | cpc d r =>
    show Keeps Q (execCpc d r s)
    exact h.keeps_writeFlags _ (fun _ hk => sbcFlags_kept hk) hs
  | sbc d r =>
    show Keeps Q (execSbc d r s)
    exact h.keeps_writeBoth _ _ _ (beq_self_eq_true d) (fun _ hk => sbcFlags_kept hk) hs
  | add d r =>
    show Keeps Q (execAdd d r s)
    exact h.keeps_writeBoth _ _ _ (beq_self_eq_true d) (fun _ hk => addFlags_kept hk) hs
  | cpse d r =>
    show Keeps Q (execCpse d r s)
    exact h.keeps_skipIf _ hs
  | cp d r =>
    show Keeps Q (execCp d r s)
    exact h.keeps_writeFlags _ (fun _ hk => subFlags_kept hk) hs
  | sub d r =>
    show Keeps Q (execSub d r s)
    exact h.keeps_writeBoth _ _ _ (beq_self_eq_true d) (fun _ hk => subFlags_kept hk) hs
  | adc d r =>
    show Keeps Q (execAdc d r s)
    exact h.keeps_writeBoth _ _ _ (beq_self_eq_true d) (fun _ hk => addFlags_kept hk) hs
  | and d r =>
    show Keeps Q (execAnd d r s)
    exact h.keeps_writeBoth _ _ _ (beq_self_eq_true d) (fun _ hk => nzs_kept hk) hs
  | eor d r =>
    show Keeps Q (execEor d r s)
    exact h.keeps_writeBoth _ _ _ (beq_self_eq_true d) (fun _ hk => nzs_kept hk) hs
  | or d r =>
    show Keeps Q (execOr d r s)
    exact h.keeps_writeBoth _ _ _ (beq_self_eq_true d) (fun _ hk => nzs_kept hk) hs
  | mov d r =>
    show Keeps Q (execMov d r s)
    exact h.keeps_finish 1 (by decide) (by decide) (h.setReg _ _ _ (beq_self_eq_true d) hs)
  | cpi d k =>
    show Keeps Q (execCpi d k s)
    exact h.keeps_writeFlags _ (fun _ hk => subFlags_kept hk) hs
  | sbci d k =>
    show Keeps Q (execSbci d k s)
    exact h.keeps_writeBoth _ _ _ (beq_self_eq_true d) (fun _ hk => sbcFlags_kept hk) hs
  | subi d k =>
    show Keeps Q (execSubi d k s)
    exact h.keeps_writeBoth _ _ _ (beq_self_eq_true d) (fun _ hk => subFlags_kept hk) hs
  | ori d k =>
    show Keeps Q (execOri d k s)
    exact h.keeps_writeBoth _ _ _ (beq_self_eq_true d) (fun _ hk => nzs_kept hk) hs
  | andi d k =>
    show Keeps Q (execAndi d k s)
    exact h.keeps_writeBoth _ _ _ (beq_self_eq_true d) (fun _ hk => nzs_kept hk) hs
  | lddZ d q =>
    show Keeps Q (execLddZ d q s)
    exact h.keeps_loadFrom _ _ (beq_self_eq_true d) hs
  | lddY d q =>
    show Keeps Q (execLddY d q s)
    exact h.keeps_loadFrom _ _ (beq_self_eq_true d) hs
  | stdZ q r =>
    show Keeps Q (execStdZ q r s)
    exact h.keeps_storeTo _ _ hs
  | stdY q r =>
    show Keeps Q (execStdY q r s)
    exact h.keeps_storeTo _ _ hs
  | lds d k =>
    show Keeps Q (execLds d k s)
    exact h.keeps_loadFrom _ _ (beq_self_eq_true d) hs
  | ldZInc d =>
    show Keeps Q (execLdZInc d s)
    exact keeps_unlessOwn hs fun _ hu => h.keeps_loadFrom _ _ (or_left (beq_self_eq_true d))
      (h.setPtr _ _ (fun _ hj => or_right hj) hu)
  | ldZDec d =>
    show Keeps Q (execLdZDec d s)
    exact keeps_unlessOwn hs fun _ hu => h.keeps_loadFrom _ _ (or_left (beq_self_eq_true d))
      (h.setPtr _ _ (fun _ hj => or_right hj) hu)
  | lpmZ d =>
    show Keeps Q (execLpmZ d s)
    exact h.keeps_lpmFrom _ _ (beq_self_eq_true d) hs
  | lpmZInc d =>
    show Keeps Q (execLpmZInc d s)
    exact keeps_unlessOwn hs fun _ hu => h.keeps_lpmFrom _ _ (or_left (beq_self_eq_true d))
      (h.setPtr _ _ (fun _ hj => or_right hj) hu)
  | elpmZ d =>
    show Keeps Q (execElpmZ d s)
    exact h.keeps_needs22 hs fun _ hu => h.keeps_elpmFrom _ _ (beq_self_eq_true d) hu
  | elpmZInc d =>
    show Keeps Q (execElpmZInc d s)
    exact keeps_unlessOwn hs fun _ hu => h.keeps_needs22 hu fun _ hv => h.keeps_elpmFrom _ _ (or_left (beq_self_eq_true d))
      (h.setRampzZ _ ⟨_, rfl⟩ (fun _ hj => or_right hj) hv)
  | ldYInc d =>
    show Keeps Q (execLdYInc d s)
    exact keeps_unlessOwn hs fun _ hu => h.keeps_loadFrom _ _ (or_left (beq_self_eq_true d))
      (h.setPtr _ _ (fun _ hj => or_right hj) hu)
  | ldYDec d =>
    show Keeps Q (execLdYDec d s)
    exact keeps_unlessOwn hs fun _ hu => h.keeps_loadFrom _ _ (or_left (beq_self_eq_true d))
      (h.setPtr _ _ (fun _ hj => or_right hj) hu)
  | ldX d =>
    show Keeps Q (execLdX d s)
    exact h.keeps_loadFrom _ _ (beq_self_eq_true d) hs
  | ldXInc d =>
    show Keeps Q (execLdXInc d s)
    exact keeps_unlessOwn hs fun _ hu => h.keeps_loadFrom _ _ (or_left (beq_self_eq_true d))
      (h.setPtr _ _ (fun _ hj => or_right hj) hu)
  | ldXDec d =>
    show Keeps Q (execLdXDec d s)
    exact keeps_unlessOwn hs fun _ hu => h.keeps_loadFrom _ _ (or_left (beq_self_eq_true d))
      (h.setPtr _ _ (fun _ hj => or_right hj) hu)
  | pop d =>
    show Keeps Q (execPop d s)
    exact h.keeps_popByte rfl hs fun _ _ hu => h.keeps_finish 2 (by decide) (by decide) (h.setReg _ _ _ (beq_self_eq_true d) hu)
  | sts k r =>
    show Keeps Q (execSts k r s)
    exact h.keeps_storeTo _ _ hs
  | stZInc r =>
    show Keeps Q (execStZInc r s)
    exact keeps_unlessOwn hs fun _ hu => h.keeps_storeTo _ _ (h.setPtr _ _ (fun _ hj => hj) hu)
  | stZDec r =>
    show Keeps Q (execStZDec r s)
    exact keeps_unlessOwn hs fun _ hu => h.keeps_storeTo _ _ (h.setPtr _ _ (fun _ hj => hj) hu)
  | xch d =>
    show Keeps Q (execXch d s)
    exact h.keeps_exchangeZ _ _ (beq_self_eq_true d) hs
  | las d =>
    show Keeps Q (execLas d s)
    exact h.keeps_exchangeZ _ _ (beq_self_eq_true d) hs
  | lac d =>
    show Keeps Q (execLac d s)
    exact h.keeps_exchangeZ _ _ (beq_self_eq_true d) hs
  | lat d =>
    show Keeps Q (execLat d s)
    exact h.keeps_exchangeZ _ _ (beq_self_eq_true d) hs
  | stYInc r =>
    show Keeps Q (execStYInc r s)
    exact keeps_unlessOwn hs fun _ hu => h.keeps_storeTo _ _ (h.setPtr _ _ (fun _ hj => hj) hu)
  | stYDec r =>
    show Keeps Q (execStYDec r s)
    exact keeps_unlessOwn hs fun _ hu => h.keeps_storeTo _ _ (h.setPtr _ _ (fun _ hj => hj) hu)
  | stX r =>
    show Keeps Q (execStX r s)
    exact h.keeps_storeTo _ _ hs
  | stXInc r =>
    show Keeps Q (execStXInc r s)
    exact keeps_unlessOwn hs fun _ hu => h.keeps_storeTo _ _ (h.setPtr _ _ (fun _ hj => hj) hu)
  | stXDec r =>
    show Keeps Q (execStXDec r s)
    exact keeps_unlessOwn hs fun _ hu => h.keeps_storeTo _ _ (h.setPtr _ _ (fun _ hj => hj) hu)
  | push r =>
    show Keeps Q (execPush r s)
    exact h.keeps_pushByte rfl hs fun _ hu => h.keeps_finish 2 (by decide) (by decide) hu
  | com d =>
    show Keeps Q (execCom d s)
    exact h.keeps_writeBoth _ _ _ (beq_self_eq_true d) (fun _ hk => comFlags_kept hk) hs
  | neg d =>
    show Keeps Q (execNeg d s)
    exact h.keeps_writeBoth _ _ _ (beq_self_eq_true d) (fun _ hk => subFlags_kept hk) hs
  | swap d =>
    show Keeps Q (execSwap d s)
    exact h.keeps_finish 1 (by decide) (by decide) (h.setReg _ _ _ (beq_self_eq_true d) hs)
  | inc d =>
    show Keeps Q (execInc d s)
    exact h.keeps_writeBoth _ _ _ (beq_self_eq_true d) (fun _ hk => nzs_kept hk) hs
  | asr d =>
    show Keeps Q (execAsr d s)
    exact h.keeps_writeBoth _ _ _ (beq_self_eq_true d) (fun _ hk => shiftFlags_kept hk) hs
  | lsr d =>
    show Keeps Q (execLsr d s)
    exact h.keeps_writeBoth _ _ _ (beq_self_eq_true d) (fun _ hk => shiftFlags_kept hk) hs
  | ror d =>
    show Keeps Q (execRor d s)
    exact h.keeps_writeBoth _ _ _ (beq_self_eq_true d) (fun _ hk => shiftFlags_kept hk) hs
  | dec d =>
    show Keeps Q (execDec d s)
    exact h.keeps_writeBoth _ _ _ (beq_self_eq_true d) (fun _ hk => nzs_kept hk) hs
  | bset b =>
    show Keeps Q (execBset b s)
    exact h.keeps_finish 1 (by decide) (by decide) (h.setSreg _ _ (fun _ hk => setBit_kept hk) hs)
  | bclr b =>
    show Keeps Q (execBclr b s)
    exact h.keeps_finish 1 (by decide) (by decide) (h.setSreg _ _ (fun _ hk => setBit_kept hk) hs)
  | ijmp =>
    show Keeps Q (execIjmp s)
    exact h.keeps_finish 2 (by decide) (by decide) (h.setPc _ _ hs)
  | eijmp =>
    show Keeps Q (execEijmp s)
    exact h.keeps_needs22 hs fun _ hu => h.keeps_finish 2 (by decide) (by decide) (h.setPc _ _ hu)
  | des k =>
    show Keeps Q (execDes k s)
    exact h.keeps_raise _ hs
  | ret =>
    show Keeps Q (execRet s)
    exact h.keeps_returnTo rfl hs fun _ hu => h.keeps_finish _ (returnCost_pos _) (returnCost_le _) hu
  | reti =>
    show Keeps Q (execReti s)
    exact h.keeps_returnTo rfl hs fun _ hu => h.keeps_finish _ (returnCost_pos _) (returnCost_le _)
      (h.setSreg _ _ (fun _ hk => setBit_kept hk) hu)
  | sleep =>
    show Keeps Q (execSleep s)
    exact h.keeps_finish 1 (by decide) (by decide) (hsleep rfl)
  | brk =>
    show Keeps Q (execBrk s)
    exact h.keeps_raise _ hs
  | wdr =>
    show Keeps Q (execWdr s)
    exact h.keeps_finish 1 (by decide) (by decide) hs
  | lpm =>
    show Keeps Q (execLpm s)
    exact h.keeps_lpmFrom _ _ rfl hs
  | elpm =>
    show Keeps Q (execElpm s)
    exact h.keeps_needs22 hs fun _ hu => h.keeps_elpmFrom _ _ rfl hu
  | spm =>
    show Keeps Q (execSpm s)
    exact h.keeps_raise _ hs
  | spmZInc =>
    show Keeps Q (execSpmZInc s)
    exact h.keeps_raise _ hs
  | icall =>
    show Keeps Q (execIcall s)
    exact h.keeps_pushRet rfl hs fun _ hu => h.keeps_finish _ (callCost_pos _) (callCost_le _) (h.setPc _ _ hu)
  | eicall =>
    show Keeps Q (execEicall s)
    exact h.keeps_needs22 hs fun _ hu => h.keeps_pushRet rfl hu fun _ hv =>
      h.keeps_finish _ (callCost_pos _) (callCost_le _) (h.setPc _ _ hv)
  | jmp k =>
    show Keeps Q (execJmp k s)
    exact h.keeps_finish 3 (by decide) (by decide) (h.setPc _ _ hs)
  | call k =>
    show Keeps Q (execCall k s)
    exact h.keeps_pushRet rfl hs fun _ hu => h.keeps_finish _ (longCallCost_pos _) (longCallCost_le _) (h.setPc _ _ hu)
  | adiw d k =>
    show Keeps Q (execAdiw d k s)
    exact h.keeps_writePairFlags _ _ _ (or_left (beq_self_eq_true d)) (or_right (beq_self_eq_true (d + 1))) (fun _ hk => adiwFlags_kept hk) hs
  | sbiw d k =>
    show Keeps Q (execSbiw d k s)
    exact h.keeps_writePairFlags _ _ _ (or_left (beq_self_eq_true d)) (or_right (beq_self_eq_true (d + 1))) (fun _ hk => sbiwFlags_kept hk) hs
  | cbi a b =>
    show Keeps Q (execCbi a b s)
    exact h.keeps_modifyIo _ _ hs
  | sbic a b =>
    show Keeps Q (execSbic a b s)
    exact h.keeps_memRead hs fun _ _ hu => h.keeps_skipIf _ hu
  | sbi a b =>
    show Keeps Q (execSbi a b s)
    exact h.keeps_modifyIo _ _ hs
  | sbis a b =>
    show Keeps Q (execSbis a b s)
    exact h.keeps_memRead hs fun _ _ hu => h.keeps_skipIf _ hu
  | mul d r =>
    show Keeps Q (execMul d r s)
    exact h.keeps_writeProduct _ _ rfl rfl (fun _ hk => mulFlags_kept hk) hs
  | inIo d a =>
    show Keeps Q (execIn d a s)
    exact h.keeps_memRead hs fun _ _ hu => h.keeps_finish 1 (by decide) (by decide) (h.setReg _ _ _ (beq_self_eq_true d) hu)
  | outIo a r =>
    show Keeps Q (execOut a r s)
    exact h.keeps_memWrite hs fun _ hu => h.keeps_finish 1 (by decide) (by decide) hu
  | rjmp k =>
    show Keeps Q (execRjmp k s)
    exact h.keeps_finish 2 (by decide) (by decide) (h.setPc _ _ hs)
  | rcall k =>
    show Keeps Q (execRcall k s)
    exact h.keeps_pushRet rfl hs fun _ hu => h.keeps_finish _ (callCost_pos _) (callCost_le _) (h.setPc _ _ hu)
  | ldi d k =>
    show Keeps Q (execLdi d k s)
    exact h.keeps_finish 1 (by decide) (by decide) (h.setReg _ _ _ (beq_self_eq_true d) hs)
  | brbs b k =>
    show Keeps Q (execBrbs b k s)
    exact h.keeps_execBrbs _ _ hs
  | brbc b k =>
    show Keeps Q (execBrbc b k s)
    exact h.keeps_execBrbc _ _ hs
  | bld d b =>
    show Keeps Q (execBld d b s)
    exact h.keeps_finish 1 (by decide) (by decide) (h.setReg _ _ _ (beq_self_eq_true d) hs)
  | bst d b =>
    show Keeps Q (execBst d b s)
    exact h.keeps_finish 1 (by decide) (by decide) (h.setSreg _ _ (fun _ hk => setT_kept hk) hs)
  | sbrc r b =>
    show Keeps Q (execSbrc r b s)
    exact h.keeps_skipIf _ hs
  | sbrs r b =>
    show Keeps Q (execSbrs r b s)
    exact h.keeps_skipIf _ hs

omit h in
/-- Every next state of a Step of an awake core has `Q`, where the state it begins in has `P`. -/
theorem keeps_step {s : State} (h : Closed .all P Q) (hawake : s.asleep = false) (hs : P (beginStep s))
    (hsleep : ∀ u, P u → P { u with asleep := true }) : Keeps Q (step s) := by
  unfold step
  rw [hawake]
  exact h.keeps_fetchInstr hs fun op op2 u hu => by
    split
    · exact keeps_exec _ (h.of_all _) hu fun _ => hsleep u hu
    · exact h.keeps_unknownWord op hu

end Closed

/-! ## Only the own-pointer forms stop -/

/-- The auto-modify forms whose register is a byte of their own pointer (R131). -/
def ownForm (i : Instr) : Bool :=
  match i with
  | .ldXInc r | .ldXDec r | .stXInc r | .stXDec r => Ptr.x.isByte r
  | .ldYInc r | .ldYDec r | .stYInc r | .stYDec r => Ptr.y.isByte r
  | .ldZInc r | .ldZDec r | .stZInc r | .stZDec r | .lpmZInc r | .elpmZInc r => Ptr.z.isByte r
  | _ => false

/-- Every other instruction answers a next state, whatever the state. -/
theorem exec_ends (i : Instr) (s : State) (h : ownForm i = false) : Ends (exec i s) := by
  cases i with
  | nop =>
    show Ends (execNop s)
    exact ends_next _
  | movw d r =>
    show Ends (execMovw d r s)
    exact ends_next _
  | muls d r =>
    show Ends (execMuls d r s)
    exact ends_next _
  | mulsu d r =>
    show Ends (execMulsu d r s)
    exact ends_next _
  | fmul d r =>
    show Ends (execFmul d r s)
    exact ends_next _
  | fmuls d r =>
    show Ends (execFmuls d r s)
    exact ends_next _
  | fmulsu d r =>
    show Ends (execFmulsu d r s)
    exact ends_next _
  | cpc d r =>
    show Ends (execCpc d r s)
    exact ends_next _
  | sbc d r =>
    show Ends (execSbc d r s)
    exact ends_next _
  | add d r =>
    show Ends (execAdd d r s)
    exact ends_next _
  | cpse d r =>
    show Ends (execCpse d r s)
    exact ends_skipIf _ _
  | cp d r =>
    show Ends (execCp d r s)
    exact ends_next _
  | sub d r =>
    show Ends (execSub d r s)
    exact ends_next _
  | adc d r =>
    show Ends (execAdc d r s)
    exact ends_next _
  | and d r =>
    show Ends (execAnd d r s)
    exact ends_next _
  | eor d r =>
    show Ends (execEor d r s)
    exact ends_next _
  | or d r =>
    show Ends (execOr d r s)
    exact ends_next _
  | mov d r =>
    show Ends (execMov d r s)
    exact ends_next _
  | cpi d k =>
    show Ends (execCpi d k s)
    exact ends_next _
  | sbci d k =>
    show Ends (execSbci d k s)
    exact ends_next _
  | subi d k =>
    show Ends (execSubi d k s)
    exact ends_next _
  | ori d k =>
    show Ends (execOri d k s)
    exact ends_next _
  | andi d k =>
    show Ends (execAndi d k s)
    exact ends_next _
  | lddZ d q =>
    show Ends (execLddZ d q s)
    exact ends_memRead fun _ _ => ends_next _
  | lddY d q =>
    show Ends (execLddY d q s)
    exact ends_memRead fun _ _ => ends_next _
  | stdZ q r =>
    show Ends (execStdZ q r s)
    exact ends_memWrite fun _ => ends_next _
  | stdY q r =>
    show Ends (execStdY q r s)
    exact ends_memWrite fun _ => ends_next _
  | lds d k =>
    show Ends (execLds d k s)
    exact ends_memRead fun _ _ => ends_next _
  | ldZInc d =>
    show Ends (execLdZInc d s)
    exact ends_unlessOwn h (ends_memRead fun _ _ => ends_next _)
  | ldZDec d =>
    show Ends (execLdZDec d s)
    exact ends_unlessOwn h (ends_memRead fun _ _ => ends_next _)
  | lpmZ d =>
    show Ends (execLpmZ d s)
    exact ends_progRead fun _ _ => ends_next _
  | lpmZInc d =>
    show Ends (execLpmZInc d s)
    exact ends_unlessOwn h (ends_progRead fun _ _ => ends_next _)
  | elpmZ d =>
    show Ends (execElpmZ d s)
    exact ends_needs22 fun _ => ends_progRead fun _ _ => ends_next _
  | elpmZInc d =>
    show Ends (execElpmZInc d s)
    exact ends_unlessOwn h (ends_needs22 fun _ => ends_progRead fun _ _ => ends_next _)
  | ldYInc d =>
    show Ends (execLdYInc d s)
    exact ends_unlessOwn h (ends_memRead fun _ _ => ends_next _)
  | ldYDec d =>
    show Ends (execLdYDec d s)
    exact ends_unlessOwn h (ends_memRead fun _ _ => ends_next _)
  | ldX d =>
    show Ends (execLdX d s)
    exact ends_memRead fun _ _ => ends_next _
  | ldXInc d =>
    show Ends (execLdXInc d s)
    exact ends_unlessOwn h (ends_memRead fun _ _ => ends_next _)
  | ldXDec d =>
    show Ends (execLdXDec d s)
    exact ends_unlessOwn h (ends_memRead fun _ _ => ends_next _)
  | pop d =>
    show Ends (execPop d s)
    exact ends_memRead fun _ _ => ends_next _
  | sts k r =>
    show Ends (execSts k r s)
    exact ends_memWrite fun _ => ends_next _
  | stZInc r =>
    show Ends (execStZInc r s)
    exact ends_unlessOwn h (ends_memWrite fun _ => ends_next _)
  | stZDec r =>
    show Ends (execStZDec r s)
    exact ends_unlessOwn h (ends_memWrite fun _ => ends_next _)
  | xch d =>
    show Ends (execXch d s)
    exact ends_memRead fun _ _ => ends_memWrite fun _ => ends_next _
  | las d =>
    show Ends (execLas d s)
    exact ends_memRead fun _ _ => ends_memWrite fun _ => ends_next _
  | lac d =>
    show Ends (execLac d s)
    exact ends_memRead fun _ _ => ends_memWrite fun _ => ends_next _
  | lat d =>
    show Ends (execLat d s)
    exact ends_memRead fun _ _ => ends_memWrite fun _ => ends_next _
  | stYInc r =>
    show Ends (execStYInc r s)
    exact ends_unlessOwn h (ends_memWrite fun _ => ends_next _)
  | stYDec r =>
    show Ends (execStYDec r s)
    exact ends_unlessOwn h (ends_memWrite fun _ => ends_next _)
  | stX r =>
    show Ends (execStX r s)
    exact ends_memWrite fun _ => ends_next _
  | stXInc r =>
    show Ends (execStXInc r s)
    exact ends_unlessOwn h (ends_memWrite fun _ => ends_next _)
  | stXDec r =>
    show Ends (execStXDec r s)
    exact ends_unlessOwn h (ends_memWrite fun _ => ends_next _)
  | push r =>
    show Ends (execPush r s)
    exact ends_memWrite fun _ => ends_next _
  | com d =>
    show Ends (execCom d s)
    exact ends_next _
  | neg d =>
    show Ends (execNeg d s)
    exact ends_next _
  | swap d =>
    show Ends (execSwap d s)
    exact ends_next _
  | inc d =>
    show Ends (execInc d s)
    exact ends_next _
  | asr d =>
    show Ends (execAsr d s)
    exact ends_next _
  | lsr d =>
    show Ends (execLsr d s)
    exact ends_next _
  | ror d =>
    show Ends (execRor d s)
    exact ends_next _
  | dec d =>
    show Ends (execDec d s)
    exact ends_next _
  | bset b =>
    show Ends (execBset b s)
    exact ends_next _
  | bclr b =>
    show Ends (execBclr b s)
    exact ends_next _
  | ijmp =>
    show Ends (execIjmp s)
    exact ends_next _
  | eijmp =>
    show Ends (execEijmp s)
    exact ends_needs22 fun _ => ends_next _
  | des k =>
    show Ends (execDes k s)
    exact ends_next _
  | ret =>
    show Ends (execRet s)
    exact ends_returnTo fun _ => ends_next _
  | reti =>
    show Ends (execReti s)
    exact ends_returnTo fun _ => ends_next _
  | sleep =>
    show Ends (execSleep s)
    exact ends_next _
  | brk =>
    show Ends (execBrk s)
    exact ends_next _
  | wdr =>
    show Ends (execWdr s)
    exact ends_next _
  | lpm =>
    show Ends (execLpm s)
    exact ends_progRead fun _ _ => ends_next _
  | elpm =>
    show Ends (execElpm s)
    exact ends_needs22 fun _ => ends_progRead fun _ _ => ends_next _
  | spm =>
    show Ends (execSpm s)
    exact ends_next _
  | spmZInc =>
    show Ends (execSpmZInc s)
    exact ends_next _
  | icall =>
    show Ends (execIcall s)
    exact ends_pushRet fun _ => ends_next _
  | eicall =>
    show Ends (execEicall s)
    exact ends_needs22 fun _ => ends_pushRet fun _ => ends_next _
  | jmp k =>
    show Ends (execJmp k s)
    exact ends_next _
  | call k =>
    show Ends (execCall k s)
    exact ends_pushRet fun _ => ends_next _
  | adiw d k =>
    show Ends (execAdiw d k s)
    exact ends_next _
  | sbiw d k =>
    show Ends (execSbiw d k s)
    exact ends_next _
  | cbi a b =>
    show Ends (execCbi a b s)
    exact ends_memRead fun _ _ => ends_memWrite fun _ => ends_next _
  | sbic a b =>
    show Ends (execSbic a b s)
    exact ends_memRead fun _ _ => ends_skipIf _ _
  | sbi a b =>
    show Ends (execSbi a b s)
    exact ends_memRead fun _ _ => ends_memWrite fun _ => ends_next _
  | sbis a b =>
    show Ends (execSbis a b s)
    exact ends_memRead fun _ _ => ends_skipIf _ _
  | mul d r =>
    show Ends (execMul d r s)
    exact ends_next _
  | inIo d a =>
    show Ends (execIn d a s)
    exact ends_memRead fun _ _ => ends_next _
  | outIo a r =>
    show Ends (execOut a r s)
    exact ends_memWrite fun _ => ends_next _
  | rjmp k =>
    show Ends (execRjmp k s)
    exact ends_next _
  | rcall k =>
    show Ends (execRcall k s)
    exact ends_pushRet fun _ => ends_next _
  | ldi d k =>
    show Ends (execLdi d k s)
    exact ends_next _
  | brbs b k =>
    show Ends (execBrbs b k s)
    unfold execBrbs
    split <;> exact ends_next _
  | brbc b k =>
    show Ends (execBrbc b k s)
    unfold execBrbc
    split <;> exact ends_next _
  | bld d b =>
    show Ends (execBld d b s)
    exact ends_next _
  | bst d b =>
    show Ends (execBst d b s)
    exact ends_next _
  | sbrc r b =>
    show Ends (execSbrc r b s)
    exact ends_skipIf _ _
  | sbrs r b =>
    show Ends (execSbrs r b s)
    exact ends_skipIf _ _

/-- An own-pointer form is refused, whatever the state (R131, R731). -/
theorem exec_own (i : Instr) (s : State) (h : ownForm i = true) : exec i s = .refused (.ownPointer s.pc0 (opWord i)) := by
  cases i with
  | ldXInc d =>
    show execLdXInc d s = _
    exact (unlessOwn_true (i := .ldXInc d) h s _).trans rfl
  | ldXDec d =>
    show execLdXDec d s = _
    exact (unlessOwn_true (i := .ldXDec d) h s _).trans rfl
  | stXInc r =>
    show execStXInc r s = _
    exact (unlessOwn_true (i := .stXInc r) h s _).trans rfl
  | stXDec r =>
    show execStXDec r s = _
    exact (unlessOwn_true (i := .stXDec r) h s _).trans rfl
  | ldYInc d =>
    show execLdYInc d s = _
    exact (unlessOwn_true (i := .ldYInc d) h s _).trans rfl
  | ldYDec d =>
    show execLdYDec d s = _
    exact (unlessOwn_true (i := .ldYDec d) h s _).trans rfl
  | stYInc r =>
    show execStYInc r s = _
    exact (unlessOwn_true (i := .stYInc r) h s _).trans rfl
  | stYDec r =>
    show execStYDec r s = _
    exact (unlessOwn_true (i := .stYDec r) h s _).trans rfl
  | ldZInc d =>
    show execLdZInc d s = _
    exact (unlessOwn_true (i := .ldZInc d) h s _).trans rfl
  | ldZDec d =>
    show execLdZDec d s = _
    exact (unlessOwn_true (i := .ldZDec d) h s _).trans rfl
  | stZInc r =>
    show execStZInc r s = _
    exact (unlessOwn_true (i := .stZInc r) h s _).trans rfl
  | stZDec r =>
    show execStZDec r s = _
    exact (unlessOwn_true (i := .stZDec r) h s _).trans rfl
  | lpmZInc d =>
    show execLpmZInc d s = _
    exact (unlessOwn_true (i := .lpmZInc d) h s _).trans rfl
  | elpmZInc d =>
    show execElpmZInc d s = _
    exact (unlessOwn_true (i := .elpmZInc d) h s _).trans rfl
  | _ => exact absurd h Bool.false_ne_true

theorem ends_unknownWord (op : Word) (s : State) : Ends (unknownWord op s) := by
  unfold unknownWord; split <;> exact ends_next _

/-! ## The two kinds of Step -/

/-- A Step of a sleeping core: no access, nothing changed but the model's own record (R54, R710). -/
theorem step_asleep {s : State} (h : s.asleep = true) : step s = stepAsleep s := by simp only [step, h]

/-- A Step of an awake core: fetch, decode, perform (R710). -/
theorem step_awake {s : State} (h : s.asleep = false) :
    step s = fetchInstr (beginStep s) fun op op2 s1 =>
      match decode op op2 with
      | some i => exec i s1
      | none => unknownWord op s1 := by
  simp only [step, h] <;> rfl

end Sys2Proof.Machine
end

