-- ==== Sys2Proof/Tests/Slice0.lean ====
section
/-! SUPPORT. The model's own tests. Every expected value is the spec's: the words and results of the Example lines of the
rules of files 41 to 44 and of 95_test_vectors.md. Then one witness theorem for every obligation that has hypotheses: a
concrete state and operands that meet them, clause by clause. -/

-- One theorem at a time: each waits in the kernel, and many waiting at once need more threads than the check allows.
set_option Elab.async false

open Sys2Proof Sys2Proof.Machine

namespace Sys2Proof.Tests

/-! ## Well-formedness: for each check an ill-formed term it refuses, and the well-formed neighbour -/

/-- R103, R104: the short fields name R16..R31 only. -/
theorem test_wellFormed_short :
    (Instr.ldi 15 0#8).wellFormed = false ∧ (Instr.ldi 16 0#8).wellFormed = true ∧
    (Instr.cpi 0 0#8).wellFormed = false ∧ (Instr.sbci 15 0#8).wellFormed = false ∧ (Instr.subi 15 0#8).wellFormed = false ∧
    (Instr.ori 15 0#8).wellFormed = false ∧ (Instr.andi 15 0#8).wellFormed = false ∧
    (Instr.muls 15 16).wellFormed = false ∧ (Instr.muls 16 15).wellFormed = false := by decide

/-- R105, R106: the tiny fields name R16..R23 only. -/
theorem test_wellFormed_tiny :
    (Instr.mulsu 15 16).wellFormed = false ∧ (Instr.fmul 24 16).wellFormed = false ∧
    (Instr.fmuls 16 24).wellFormed = false ∧ (Instr.fmulsu 16 15).wellFormed = false ∧
    (Instr.fmulsu 23 23).wellFormed = true := by decide

/-- R107, R108: the pair fields name even registers. -/
theorem test_wellFormed_even :
    (Instr.movw 1 0).wellFormed = false ∧ (Instr.movw 0 31).wellFormed = false ∧ (Instr.movw 30 0).wellFormed = true := by
  decide

/-- R109: the pair of ADIW and SBIW is R24, R26, R28 or R30. -/
theorem test_wellFormed_pairTiny :
    (Instr.adiw 22 0#6).wellFormed = false ∧ (Instr.adiw 25 0#6).wellFormed = false ∧
    (Instr.sbiw 22 0#6).wellFormed = false ∧ (Instr.sbiw 31 0#6).wellFormed = false ∧
    (Instr.sbiw 30 0#6).wellFormed = true := by decide

/-! ## Decoding -/

/-- Rows 1..14 of R125: the words of the spec's own examples, written bit by bit. -/
theorem test_decode_rows_one :
    decode 0b0000000000000000#16 0x0000#16 = some .nop ∧
    decode 0b0000000100001111#16 0x0000#16 = some (.movw 0 30) ∧
    decode 0b0000001000000001#16 0x0000#16 = some (.muls 16 17) ∧
    decode 0b0000001100000001#16 0x0000#16 = some (.mulsu 16 17) ∧
    decode 0b0000001100001001#16 0x0000#16 = some (.fmul 16 17) ∧
    decode 0b0000001110000001#16 0x0000#16 = some (.fmuls 16 17) ∧
    decode 0b0000001110001001#16 0x0000#16 = some (.fmulsu 16 17) ∧
    decode 0b0000011100010011#16 0x0000#16 = some (.cpc 17 19) ∧
    decode 0b0000101100000001#16 0x0000#16 = some (.sbc 16 17) ∧
    decode 0b0000111100000001#16 0x0000#16 = some (.add 16 17) ∧
    decode 0b0001000000000001#16 0x0000#16 = some (.cpse 0 1) ∧
    decode 0b0001011100000001#16 0x0000#16 = some (.cp 16 17) ∧
    decode 0b0001101100000001#16 0x0000#16 = some (.sub 16 17) ∧
    decode 0b0001111100000001#16 0x0000#16 = some (.adc 16 17) := by decide +kernel

/-- Rows 15..28 of R125: the words of the spec's own examples, written bit by bit. -/
theorem test_decode_rows_two :
    decode 0b0010001100000001#16 0x0000#16 = some (.and 16 17) ∧
    decode 0b0010011100000000#16 0x0000#16 = some (.eor 16 16) ∧
    decode 0b0010101100000001#16 0x0000#16 = some (.or 16 17) ∧
    decode 0b0010111100000001#16 0x0000#16 = some (.mov 16 17) ∧
    decode 0b0011100000000000#16 0x0000#16 = some (.cpi 16 0x80#8) ∧
    decode 0b0100000000000000#16 0x0000#16 = some (.sbci 16 0x00#8) ∧
    decode 0b0101000000000001#16 0x0000#16 = some (.subi 16 0x01#8) ∧
    decode 0b0110100000000000#16 0x0000#16 = some (.ori 16 0x80#8) ∧
    decode 0b0111000000001111#16 0x0000#16 = some (.andi 16 0x0F#8) ∧
    decode 0b1000000100000101#16 0x0000#16 = some (.lddZ 16 5#6) ∧
    decode 0b1000000100001101#16 0x0000#16 = some (.lddY 16 5#6) ∧
    decode 0b1000001100000101#16 0x0000#16 = some (.stdZ 5#6 16) ∧
    decode 0b1000001100001101#16 0x0000#16 = some (.stdY 5#6 16) ∧
    decode 0b1001000100000000#16 0x1234#16 = some (.lds 16 0x1234#16) := by decide +kernel

/-- Rows 29..42 of R125: the words of the spec's own examples, written bit by bit. -/
theorem test_decode_rows_three :
    decode 0b1001000000000001#16 0x0000#16 = some (.ldZInc 0) ∧
    decode 0b1001000000000010#16 0x0000#16 = some (.ldZDec 0) ∧
    decode 0b1001000100000100#16 0x0000#16 = some (.lpmZ 16) ∧
    decode 0b1001000100000101#16 0x0000#16 = some (.lpmZInc 16) ∧
    decode 0b1001000100000110#16 0x0000#16 = some (.elpmZ 16) ∧
    decode 0b1001000100000111#16 0x0000#16 = some (.elpmZInc 16) ∧
    decode 0b1001000000001001#16 0x0000#16 = some (.ldYInc 0) ∧
    decode 0b1001000000001010#16 0x0000#16 = some (.ldYDec 0) ∧
    decode 0b1001000000001100#16 0x0000#16 = some (.ldX 0) ∧
    decode 0b1001000000001101#16 0x0000#16 = some (.ldXInc 0) ∧
    decode 0b1001000000001110#16 0x0000#16 = some (.ldXDec 0) ∧
    decode 0b1001000001011111#16 0x0000#16 = some (.pop 5) ∧
    decode 0b1001001100000000#16 0x1234#16 = some (.sts 0x1234#16 16) ∧
    decode 0b1001001100000001#16 0x0000#16 = some (.stZInc 16) := by decide +kernel

/-- Rows 43..56 of R125: the words of the spec's own examples, written bit by bit. -/
theorem test_decode_rows_four :
    decode 0b1001001100000010#16 0x0000#16 = some (.stZDec 16) ∧
    decode 0b1001001100000100#16 0x0000#16 = some (.xch 16) ∧
    decode 0b1001001100000101#16 0x0000#16 = some (.las 16) ∧
    decode 0b1001001100000110#16 0x0000#16 = some (.lac 16) ∧
    decode 0b1001001100000111#16 0x0000#16 = some (.lat 16) ∧
    decode 0b1001001100001001#16 0x0000#16 = some (.stYInc 16) ∧
    decode 0b1001001100001010#16 0x0000#16 = some (.stYDec 16) ∧
    decode 0b1001001100001100#16 0x0000#16 = some (.stX 16) ∧
    decode 0b1001001100001101#16 0x0000#16 = some (.stXInc 16) ∧
    decode 0b1001001100001110#16 0x0000#16 = some (.stXDec 16) ∧
    decode 0b1001001001011111#16 0x0000#16 = some (.push 5) ∧
    decode 0b1001010100000000#16 0x0000#16 = some (.com 16) ∧
    decode 0b1001010100000001#16 0x0000#16 = some (.neg 16) ∧
    decode 0b1001010100000010#16 0x0000#16 = some (.swap 16) := by decide +kernel

/-- Rows 57..70 of R125: the words of the spec's own examples, written bit by bit. -/
theorem test_decode_rows_five :
    decode 0b1001010100000011#16 0x0000#16 = some (.inc 16) ∧
    decode 0b1001010100000101#16 0x0000#16 = some (.asr 16) ∧
    decode 0b1001010100000110#16 0x0000#16 = some (.lsr 16) ∧
    decode 0b1001010100000111#16 0x0000#16 = some (.ror 16) ∧
    decode 0b1001010100001010#16 0x0000#16 = some (.dec 16) ∧
    decode 0b1001010001111000#16 0x0000#16 = some (.bset 7) ∧
    decode 0b1001010011111000#16 0x0000#16 = some (.bclr 7) ∧
    decode 0b1001010000001001#16 0x0000#16 = some .ijmp ∧
    decode 0b1001010000011001#16 0x0000#16 = some .eijmp ∧
    decode 0b1001010011111011#16 0x0000#16 = some (.des 15#4) ∧
    decode 0b1001010100001000#16 0x0000#16 = some .ret ∧
    decode 0b1001010100011000#16 0x0000#16 = some .reti ∧
    decode 0b1001010110001000#16 0x0000#16 = some .sleep ∧
    decode 0b1001010110011000#16 0x0000#16 = some .brk := by decide +kernel

/-- Rows 71..84 of R125: the words of the spec's own examples, written bit by bit. -/
theorem test_decode_rows_six :
    decode 0b1001010110101000#16 0x0000#16 = some .wdr ∧
    decode 0b1001010111001000#16 0x0000#16 = some .lpm ∧
    decode 0b1001010111011000#16 0x0000#16 = some .elpm ∧
    decode 0b1001010111101000#16 0x0000#16 = some .spm ∧
    decode 0b1001010111111000#16 0x0000#16 = some .spmZInc ∧
    decode 0b1001010100001001#16 0x0000#16 = some .icall ∧
    decode 0b1001010100011001#16 0x0000#16 = some .eicall ∧
    decode 0b1001010111111101#16 0xFFFF#16 = some (.jmp 0x3FFFFF#22) ∧
    decode 0b1001010000001110#16 0x0200#16 = some (.call 0x0200#22) ∧
    decode 0b1001011000000001#16 0x0000#16 = some (.adiw 24 1#6) ∧
    decode 0b1001011100000001#16 0x0000#16 = some (.sbiw 24 1#6) ∧
    decode 0b1001100000101010#16 0x0000#16 = some (.cbi 5#5 2) ∧
    decode 0b1001100100101010#16 0x0000#16 = some (.sbic 5#5 2) ∧
    decode 0b1001101011111111#16 0x0000#16 = some (.sbi 0x1F#5 7) := by decide +kernel

/-- Rows 85..97 of R125: the words of the spec's own examples, written bit by bit. -/
theorem test_decode_rows_seven :
    decode 0b1001101100101010#16 0x0000#16 = some (.sbis 5#5 2) ∧
    decode 0b1001111100000001#16 0x0000#16 = some (.mul 16 17) ∧
    decode 0b1011011100001111#16 0x0000#16 = some (.inIo 16 0x3F#6) ∧
    decode 0b1011111100001101#16 0x0000#16 = some (.outIo 0x3D#6 16) ∧
    decode 0b1100000000000101#16 0x0000#16 = some (.rjmp 5#12) ∧
    decode 0b1101000000000100#16 0x0000#16 = some (.rcall 4#12) ∧
    decode 0b1110101000001011#16 0x0000#16 = some (.ldi 16 0xAB#8) ∧
    decode 0b1111000000011001#16 0x0000#16 = some (.brbs 1 3#7) ∧
    decode 0b1111010000011001#16 0x0000#16 = some (.brbc 1 3#7) ∧
    decode 0b1111100100000011#16 0x0000#16 = some (.bld 16 3) ∧
    decode 0b1111101100000111#16 0x0000#16 = some (.bst 16 7) ∧
    decode 0b1111110100000011#16 0x0000#16 = some (.sbrc 16 3) ∧
    decode 0b1111111100000111#16 0x0000#16 = some (.sbrs 16 7) := by decide +kernel

/-- R127: words that are no instruction. -/
theorem test_decode_rejects :
    decode 0x0001#16 0#16 = none ∧ decode 0x00FF#16 0#16 = none ∧ decode 0x9003#16 0#16 = none ∧
    decode 0x9208#16 0#16 = none ∧ decode 0x9404#16 0#16 = none ∧ decode 0xF808#16 0#16 = none ∧
    decode 0xFFFF#16 0#16 = none := by decide +kernel

/-- R134, R135: LSL R16, CLR R16, BREQ +3, LD R0, Z. -/
theorem test_decode_aliases :
    decode 0x0F00#16 0#16 = some (.add 16 16) ∧ decode 0x2700#16 0#16 = some (.eor 16 16) ∧
    decode 0xF019#16 0#16 = some (.brbs 1 3#7) ∧ decode 0x8000#16 0#16 = some (.lddZ 0 0#6) := by decide +kernel

/-- R83, R84, R123: bytes give their first instruction and the rest, or a named rejection. -/
theorem test_decode_bytes :
    decodeBytes [0x01#8, 0x0F#8, 0xAA#8] = .ok (.add 16 17, [0xAA#8]) ∧
    decodeBytes [0x00#8, 0x91#8, 0x34#8, 0x12#8] = .ok (.lds 16 0x1234#16, []) ∧
    decodeBytes [0x01#8, 0x00#8] = .error (.notAnInstruction 0x0001#16) ∧
    decodeBytes [0x00#8, 0x91#8, 0x34#8] = .error .truncated ∧
    decodeBytes [0x01#8] = .error .truncated := by
  refine ⟨?_, ?_, ?_, ?_, ?_⟩ <;> rfl

/-- The numbering of spec/opcode_table.json: the second word's bits count on from bit 16. -/
theorem test_decodeTableWord :
    decodeTableWord 16 0x0F01 = some (.add 16 17) ∧ decodeTableWord 32 0x12349100 = some (.lds 16 0x1234#16) ∧
    decodeTableWord 16 0x0001 = none := by decide +kernel

/-! ## Steps -/

/-- The reset state with an instruction's words where the next Step fetches them. -/
def start (op op2 : Word) : State := State.reset.placeInstr op op2

/-- The same with a 22-bit PC. -/
def start22 (op op2 : Word) : State := { State.reset with params := ⟨.pc22, false⟩ }.placeInstr op op2

/-- A state with registers written. -/
def put (s : State) (l : List (Reg × Byte)) : State := l.foldl (fun u x => u.setReg x.1 x.2) s

/-- A state with data bytes written. -/
def store (s : State) (l : List (Word × Byte)) : State := l.foldl (fun u x => u.keepByte x.1 x.2) s

/-- A state with a program word more. -/
def word (s : State) (wa : Nat) (w : Word) : State := { s with prog := Program.setWord s.prog wa w }

/-- A state with SREG written. -/
def flags (s : State) (b : Byte) : State := s.setSreg (Sreg.ofByte b)

/-- A state with one data address of the given kind. -/
def region (s : State) (a : Nat) (k : RegionKind) : State := { s with regions := ⟨a, 1, k⟩ :: s.regions }

/-- What is seen of the next state, if there is one. -/
def seen {α : Type} (o : Outcome) (f : State → α) : Option α :=
  match o with
  | .next t => some (f t)
  | .fault _ | .refused _ => none

/-- Why a Step is refused, if it is. -/
def refusal (o : Outcome) : Option Refusal :=
  match o with
  | .refused r => some r
  | .next _ | .fault _ => none

/-- The result register, SREG and the cycles of a register instruction. -/
def regSregCycles (d : Reg) (t : State) : Byte × Byte × BitVec 64 := (t.reg d, t.sreg.toByte, t.cycles)

/-- R205: the Example line. -/
theorem test_step_add :
    seen (step (put (start 0x0F01#16 0#16) [(16, 0x80#8), (17, 0x80#8)])) (regSregCycles 16) = some (0x00#8, 0x1B#8, 1#64) := by
  decide +kernel

/-- R206: the Example line. -/
theorem test_step_adc :
    seen (step (flags (put (start 0x1F01#16 0#16) [(16, 0x7F#8), (17, 0x00#8)]) 0x01#8)) (regSregCycles 16) = some
    (0x80#8, 0x2C#8, 1#64) := by
  decide +kernel

/-- R207: the Example line. -/
theorem test_step_sub :
    seen (step (put (start 0x1B01#16 0#16) [(16, 0x10#8), (17, 0x20#8)])) (regSregCycles 16) = some (0xF0#8, 0x15#8, 1#64) := by
  decide +kernel

/-- R208: the Example line. -/
theorem test_step_subi :
    seen (step (start 0x5001#16 0#16)) (regSregCycles 16) = some (0xFF#8, 0x35#8, 1#64) := by
  decide +kernel

/-- R209: the Example line. -/
theorem test_step_sbc :
    seen (step (flags (start 0x0B01#16 0#16) 0x01#8)) (regSregCycles 16) = some (0xFF#8, 0x35#8, 1#64) := by
  decide +kernel

/-- R210: the Example line. -/
theorem test_step_sbci :
    seen (step (flags (put (start 0x4000#16 0#16) [(16, 0x80#8)]) 0x01#8)) (regSregCycles 16) = some (0x7F#8, 0x38#8,
    1#64) := by
  decide +kernel

/-- R211: the Example line. -/
theorem test_step_cp :
    seen (step (put (start 0x1701#16 0#16) [(16, 0x01#8), (17, 0x02#8)])) (regSregCycles 16) = some (0x01#8, 0x35#8, 1#64) := by
  decide +kernel

/-- R212: the Example line. -/
theorem test_step_cpc :
    seen (step (flags (start 0x0713#16 0#16) 0x03#8)) (regSregCycles 17) = some (0x00#8, 0x35#8, 1#64) := by
  decide +kernel

/-- R213: the Example line. -/
theorem test_step_cpi :
    seen (step (put (start 0x3800#16 0#16) [(16, 0x7F#8)])) (regSregCycles 16) = some (0x7F#8, 0x0D#8, 1#64) := by
  decide +kernel

/-- R214: the Example line. -/
theorem test_step_neg :
    seen (step (put (start 0x9501#16 0#16) [(16, 0x01#8)])) (regSregCycles 16) = some (0xFF#8, 0x35#8, 1#64) := by
  decide +kernel

/-- R215: the Example line. -/
theorem test_step_inc :
    seen (step (put (start 0x9503#16 0#16) [(16, 0x7F#8)])) (regSregCycles 16) = some (0x80#8, 0x0C#8, 1#64) := by
  decide +kernel

/-- R216: the Example line. -/
theorem test_step_dec :
    seen (step (put (start 0x950A#16 0#16) [(16, 0x80#8)])) (regSregCycles 16) = some (0x7F#8, 0x18#8, 1#64) := by
  decide +kernel

/-- R217: the Example line. -/
theorem test_step_and :
    seen (step (flags (put (start 0x2301#16 0#16) [(16, 0xF0#8), (17, 0x0F#8)]) 0x08#8)) (regSregCycles 16) = some
    (0x00#8, 0x02#8, 1#64) := by
  decide +kernel

/-- R218: the Example line. -/
theorem test_step_andi :
    seen (step (put (start 0x700F#16 0#16) [(16, 0xA5#8)])) (regSregCycles 16) = some (0x05#8, 0x00#8, 1#64) := by
  decide +kernel

/-- R219: the Example line. -/
theorem test_step_or :
    seen (step (start 0x2B01#16 0#16)) (regSregCycles 16) = some (0x00#8, 0x02#8, 1#64) := by
  decide +kernel

/-- R220: the Example line. -/
theorem test_step_ori :
    seen (step (put (start 0x6800#16 0#16) [(16, 0x01#8)])) (regSregCycles 16) = some (0x81#8, 0x14#8, 1#64) := by
  decide +kernel

/-- R221: the Example line. -/
theorem test_step_eor :
    seen (step (flags (put (start 0x2700#16 0#16) [(16, 0x5A#8)]) 0x01#8)) (regSregCycles 16) = some (0x00#8, 0x03#8,
    1#64) := by
  decide +kernel

/-- R222: the Example line. -/
theorem test_step_com :
    seen (step (start 0x9500#16 0#16)) (regSregCycles 16) = some (0xFF#8, 0x15#8, 1#64) := by
  decide +kernel

/-- R223: the Example line. -/
theorem test_step_lsr :
    seen (step (put (start 0x9506#16 0#16) [(16, 0x01#8)])) (regSregCycles 16) = some (0x00#8, 0x1B#8, 1#64) := by
  decide +kernel

/-- R224: the Example line. -/
theorem test_step_asr :
    seen (step (put (start 0x9505#16 0#16) [(16, 0x81#8)])) (regSregCycles 16) = some (0xC0#8, 0x15#8, 1#64) := by
  decide +kernel

/-- R225: the Example line. -/
theorem test_step_ror :
    seen (step (flags (put (start 0x9507#16 0#16) [(16, 0x01#8)]) 0x01#8)) (regSregCycles 16) = some (0x80#8, 0x15#8,
    1#64) := by
  decide +kernel

/-- R226: the Example line. -/
theorem test_step_swap :
    seen (step (flags (put (start 0x9502#16 0#16) [(16, 0xA5#8)]) 0x3F#8)) (regSregCycles 16) = some (0x5A#8, 0x3F#8,
    1#64) := by
  decide +kernel

/-- R400: the Example line. -/
theorem test_step_mov :
    seen (step (put (start 0x2F01#16 0#16) [(17, 0x42#8)])) (regSregCycles 16) = some (0x42#8, 0x00#8, 1#64) := by
  decide +kernel

/-- R402: the Example line. -/
theorem test_step_ldi :
    seen (step (start 0xEA0B#16 0#16)) (regSregCycles 16) = some (0xAB#8, 0x00#8, 1#64) := by
  decide +kernel

/-- R501: the Example line. -/
theorem test_step_bld :
    seen (step (flags (start 0xF903#16 0#16) 0x40#8)) (regSregCycles 16) = some (0x08#8, 0x40#8, 1#64) := by
  decide +kernel

/-- R502: the Example line. -/
theorem test_step_bst :
    seen (step (put (start 0xFB07#16 0#16) [(16, 0x80#8)])) (regSregCycles 16) = some (0x80#8, 0x40#8, 1#64) := by
  decide +kernel

/-- R503: the Example line. -/
theorem test_step_bset :
    seen (step (start 0x9478#16 0#16)) (regSregCycles 0) = some (0x00#8, 0x80#8, 1#64) := by
  decide +kernel

/-- R504: the Example line. -/
theorem test_step_bclr :
    seen (step (flags (start 0x94F8#16 0#16) 0xFF#8)) (regSregCycles 0) = some (0x00#8, 0x7F#8, 1#64) := by
  decide +kernel

/-- R227: the Example line. -/
theorem test_step_adiw :
    seen (step (put (start 0x9601#16 0#16) [(24, 0xFF#8)])) (fun t => (t.pair 24, t.sreg.toByte, t.cycles)) = some
    (0x0100#16, 0x00#8, 2#64) := by
  decide +kernel

/-- R228: the Example line. -/
theorem test_step_sbiw :
    seen (step (start 0x9701#16 0#16)) (fun t => (t.pair 24, t.sreg.toByte, t.cycles)) = some (0xFFFF#16, 0x15#8, 2#64) := by
  decide +kernel

/-- R229: the Example line. -/
theorem test_step_mul :
    seen (step (put (start 0x9F01#16 0#16) [(16, 0xFF#8), (17, 0xFF#8)])) (fun t => (t.pair 0, t.sreg.toByte, t.cycles)) =
    some (0xFE01#16, 0x01#8, 2#64) := by
  decide +kernel

/-- R230: the Example line. -/
theorem test_step_muls :
    seen (step (put (start 0x0201#16 0#16) [(16, 0xFF#8), (17, 0x01#8)])) (fun t => (t.pair 0, t.sreg.toByte, t.cycles)) =
    some (0xFFFF#16, 0x01#8, 2#64) := by
  decide +kernel

/-- R231: the Example line. -/
theorem test_step_mulsu :
    seen (step (put (start 0x0301#16 0#16) [(16, 0xFF#8), (17, 0xFF#8)])) (fun t => (t.pair 0, t.sreg.toByte, t.cycles)) =
    some (0xFF01#16, 0x01#8, 2#64) := by
  decide +kernel

/-- R232: the Example line. -/
theorem test_step_fmul :
    seen (step (put (start 0x0309#16 0#16) [(16, 0x80#8), (17, 0x80#8)])) (fun t => (t.pair 0, t.sreg.toByte, t.cycles)) =
    some (0x8000#16, 0x00#8, 2#64) := by
  decide +kernel

/-- R233: the Example line. -/
theorem test_step_fmuls :
    seen (step (put (start 0x0381#16 0#16) [(16, 0x40#8), (17, 0xC0#8)])) (fun t => (t.pair 0, t.sreg.toByte, t.cycles)) =
    some (0xE000#16, 0x01#8, 2#64) := by
  decide +kernel

/-- R234: the Example line. -/
theorem test_step_fmulsu :
    seen (step (put (start 0x0389#16 0#16) [(16, 0x40#8), (17, 0x80#8)])) (fun t => (t.pair 0, t.sreg.toByte, t.cycles)) =
    some (0x4000#16, 0x00#8, 2#64) := by
  decide +kernel

/-- R401: the Example line. -/
theorem test_step_movw :
    seen (step (put (start 0x010F#16 0#16) [(30, 0x34#8), (31, 0x12#8)])) (fun t => (t.pair 0, t.sreg.toByte, t.cycles)) =
    some (0x1234#16, 0x00#8, 1#64) := by
  decide +kernel

/-- R300: the Example line. -/
theorem test_step_rjmp :
    seen (step ({ State.reset with pc := 0x0010#22, sp := 0x08FF#16 }.placeInstr 0xC005#16 0x0#16)) (fun t => (t.pc,
    t.cycles)) = some (0x000016#22, 2#64) := by
  decide +kernel

/-- R300: the Example line. -/
theorem test_step_rjmp_wraps :
    seen (step ({ State.reset with pc := 0x0010#22, sp := 0x08FF#16 }.placeInstr 0xC800#16 0x0#16)) (fun t => (t.pc,
    t.cycles)) = some (0x00F811#22, 2#64) := by
  decide +kernel

/-- R301: the Example line. -/
theorem test_step_jmp :
    seen (step ({ State.reset with pc := 0x0000#22, sp := 0x08FF#16 }.placeInstr 0x95FD#16 0xFFFF#16)) (fun t => (t.pc,
    t.cycles)) = some (0x00FFFF#22, 3#64) := by
  decide +kernel

/-- R302: the Example line. -/
theorem test_step_ijmp :
    seen (step (put ({ State.reset with pc := 0x0000#22, sp := 0x08FF#16 }.placeInstr 0x9409#16 0x0#16) [(30, 0x34#8),
    (31, 0x12#8)])) (fun t => (t.pc, t.cycles)) = some (0x001234#22, 2#64) := by
  decide +kernel

/-- R303: the Example line. -/
theorem test_step_eijmp :
    seen (step (put { ({ State.reset with params := ⟨.pc22, false⟩, pc := 0x0000#22, sp := 0x08FF#16 }.placeInstr
    0x9419#16 0x0#16) with eind := 0x01#8 } [(30, 0x34#8), (31, 0x12#8)])) (fun t => (t.pc, t.cycles)) = some
    (0x011234#22, 2#64) := by
  decide +kernel

/-- R305: the Example line. -/
theorem test_step_rcall :
    seen (step ({ State.reset with pc := 0x0100#22, sp := 0x08FF#16 }.placeInstr 0xD004#16 0x0#16)) (fun t => (t.pc,
    t.cycles, (t.sp, Memory.read t.data 0x08FF, Memory.read t.data 0x08FE))) = some (0x000105#22, 3#64, 0x08FD#16, 0x01#8,
    0x01#8) := by
  decide +kernel

/-- R306: the Example line. -/
theorem test_step_call :
    seen (step ({ State.reset with pc := 0x0010#22, sp := 0x08FF#16 }.placeInstr 0x940E#16 0x0200#16)) (fun t => (t.pc,
    t.cycles, (t.sp, Memory.read t.data 0x08FF, Memory.read t.data 0x08FE))) = some (0x000200#22, 4#64, 0x08FD#16, 0x12#8,
    0x00#8) := by
  decide +kernel

/-- R307: the Example line. -/
theorem test_step_icall :
    seen (step (put ({ State.reset with pc := 0x0020#22, sp := 0x08FF#16 }.placeInstr 0x9509#16 0x0#16) [(31, 0x03#8)]))
    (fun t => (t.pc, t.cycles, (t.sp, Memory.read t.data 0x08FF, Memory.read t.data 0x08FE))) = some (0x000300#22, 3#64,
    0x08FD#16, 0x21#8, 0x00#8) := by
  decide +kernel

/-- R308: the Example line. -/
theorem test_step_eicall :
    seen (step (put { ({ State.reset with params := ⟨.pc22, false⟩, pc := 0x0020#22, sp := 0x08FF#16 }.placeInstr
    0x9519#16 0x0#16) with eind := 0x02#8 } [(31, 0x03#8)])) (fun t => (t.pc, t.sp, t.cycles, Memory.read t.data 0x08FF,
    Memory.read t.data 0x08FE, Memory.read t.data 0x08FD)) = some (0x020300#22, 0x08FC#16, 4#64, 0x21#8, 0x00#8, 0x00#8) := by
  decide +kernel

/-- R309: the Example line. -/
theorem test_step_ret :
    seen (step (store { ({ State.reset with pc := 0x0105#22, sp := 0x08FF#16 }.placeInstr 0x9508#16 0x0#16) with sp :=
    0x08FD#16 } [(0x08FE#16, 0x01#8), (0x08FF#16, 0x01#8)])) (fun t => (t.pc, t.sp, t.cycles)) = some (0x0101#22,
    0x08FF#16, 4#64) := by
  decide +kernel

/-- R310: the Example line. -/
theorem test_step_reti :
    seen (step (store { ({ State.reset with pc := 0x0000#22, sp := 0x08FF#16 }.placeInstr 0x9518#16 0x0#16) with sp :=
    0x08FD#16 } [(0x08FE#16, 0x34#8), (0x08FF#16, 0x12#8)])) (fun t => (t.pc, t.sp, t.sreg.toByte)) = some (0x3412#22,
    0x08FF#16, 0x80#8) := by
  decide +kernel

/-- R312: the Example line. -/
theorem test_step_brbs_taken :
    seen (step (flags (start 0xF019#16 0#16) 0x02#8)) (fun t => (t.pc, t.cycles)) = some (0x000004#22, 2#64) := by
  decide +kernel

/-- R312: the Example line. -/
theorem test_step_brbs_not_taken :
    seen (step (start 0xF019#16 0#16)) (fun t => (t.pc, t.cycles)) = some (0x000001#22, 1#64) := by
  decide +kernel

/-- R313: the Example line. -/
theorem test_step_brbc :
    seen (step (start 0xF419#16 0#16)) (fun t => (t.pc, t.cycles)) = some (0x000004#22, 2#64) := by
  decide +kernel

/-- R315: the Example line. -/
theorem test_step_cpse :
    seen (step (word (put (start 0x1001#16 0x9100#16) [(0, 5#8), (1, 5#8)]) 2 0x1234#16)) (fun t => (t.pc, t.cycles)) =
    some (0x000003#22, 3#64) := by
  decide +kernel

/-- R316: the Example line. -/
theorem test_step_sbrc :
    seen (step (start 0xFD03#16 0#16)) (fun t => (t.pc, t.cycles)) = some (0x000002#22, 2#64) := by
  decide +kernel

/-- R316: the Example line. -/
theorem test_step_sbrc_no_skip :
    seen (step (put (start 0xFD03#16 0#16) [(16, 0x08#8)])) (fun t => (t.pc, t.cycles)) = some (0x000001#22, 1#64) := by
  decide +kernel

/-- R317: the Example line. -/
theorem test_step_sbrs :
    seen (step (put (start 0xFF07#16 0x940C#16) [(16, 0x80#8)])) (fun t => (t.pc, t.cycles)) = some (0x000003#22, 3#64) := by
  decide +kernel

/-- R318: the Example line. -/
theorem test_step_sbic :
    seen (step (start 0x992A#16 0#16)) (fun t => (t.pc, t.cycles)) = some (0x000002#22, 2#64) := by
  decide +kernel

/-- R319: the Example line. -/
theorem test_step_sbis :
    seen (step (store (start 0x9B2A#16 0#16) [(0x0025#16, 0x04#8)])) (fun t => (t.pc, t.cycles)) = some (0x000002#22,
    2#64) := by
  decide +kernel

/-- R404: the Example line. -/
theorem test_step_ldX :
    seen (step (store (put (start 0x900C#16 0x0#16) [(27, 0x01#8)]) [(0x0100#16, 0x77#8)])) (fun t => (t.reg 0, t.pc,
    t.cycles)) = some (0x77#8, 1#22, 2#64) := by
  decide +kernel

/-- R405: the Example line. -/
theorem test_step_ldXInc :
    seen (step (store (put (start 0x900D#16 0x0#16) [(26, 0xFF#8), (27, 0x01#8)]) [(0x01FF#16, 0x66#8)])) (fun t => (t.reg
    0, t.pc, t.cycles, t.ptr .x)) = some (0x66#8, 1#22, 2#64, 0x0200#16) := by
  decide +kernel

/-- R406: the Example line. -/
theorem test_step_ldXDec :
    seen (step (store (put (start 0x900E#16 0x0#16) [(27, 0x01#8)]) [(0x00FF#16, 0x55#8)])) (fun t => (t.reg 0, t.pc,
    t.cycles, t.ptr .x)) = some (0x55#8, 1#22, 2#64, 0x00FF#16) := by
  decide +kernel

/-- R407: the Example line. -/
theorem test_step_ldYInc :
    seen (step (store (put (start 0x9009#16 0x0#16) [(29, 0x02#8)]) [(0x0200#16, 0x44#8)])) (fun t => (t.reg 0, t.pc,
    t.cycles, t.ptr .y)) = some (0x44#8, 1#22, 2#64, 0x0201#16) := by
  decide +kernel

/-- R408: the Example line. -/
theorem test_step_ldYDec :
    seen (step (store (put (start 0x900A#16 0x0#16) [(29, 0x02#8)]) [(0x01FF#16, 0x43#8)])) (fun t => (t.reg 0, t.pc,
    t.cycles, t.ptr .y)) = some (0x43#8, 1#22, 2#64, 0x01FF#16) := by
  decide +kernel

/-- R409: the Example line. -/
theorem test_step_lddY :
    seen (step (store (put (start 0x810D#16 0x0#16) [(29, 0x02#8)]) [(0x0205#16, 0x99#8)])) (fun t => (t.reg 16, t.pc,
    t.cycles, t.ptr .y)) = some (0x99#8, 1#22, 2#64, 0x0200#16) := by
  decide +kernel

/-- R410: the Example line. -/
theorem test_step_ldZInc :
    seen (step (store (put (start 0x9001#16 0x0#16) [(30, 0x10#8)]) [(0x0010#16, 0x21#8)])) (fun t => (t.reg 0, t.pc,
    t.cycles, t.ptr .z)) = some (0x21#8, 1#22, 2#64, 0x0011#16) := by
  decide +kernel

/-- R411: the Example line. -/
theorem test_step_ldZDec :
    seen (step (store (put (start 0x9002#16 0x0#16) [(30, 0x10#8)]) [(0x000F#16, 0x20#8)])) (fun t => (t.reg 0, t.pc,
    t.cycles, t.ptr .z)) = some (0x20#8, 1#22, 2#64, 0x000F#16) := by
  decide +kernel

/-- R412: the Example line. -/
theorem test_step_lddZ :
    seen (step (store (put (start 0x8105#16 0x0#16) [(31, 0x03#8)]) [(0x0305#16, 0x98#8)])) (fun t => (t.reg 16, t.pc,
    t.cycles, t.ptr .z)) = some (0x98#8, 1#22, 2#64, 0x0300#16) := by
  decide +kernel

/-- R422: the Example line. -/
theorem test_step_lds :
    seen (step (store (start 0x9100#16 0x1234#16) [(0x1234#16, 0x5C#8)])) (fun t => (t.reg 16, t.pc, t.cycles)) = some
    (0x5C#8, 2#22, 2#64) := by
  decide +kernel

/-- R413: the Example line. -/
theorem test_step_stX :
    seen (step (put (start 0x930C#16 0x0#16) [(27, 0x01#8), (16, 0xA5#8)])) (fun t => (Memory.read t.data 0x0100, t.ptr
    .x, t.pc, t.cycles)) = some (0xA5#8, 0x0100#16, 1#22, 2#64) := by
  decide +kernel

/-- R414: the Example line. -/
theorem test_step_stXInc :
    seen (step (put (start 0x930D#16 0x0#16) [(27, 0x01#8), (16, 0xA5#8)])) (fun t => (Memory.read t.data 0x0100, t.ptr
    .x, t.pc, t.cycles)) = some (0xA5#8, 0x0101#16, 1#22, 2#64) := by
  decide +kernel

/-- R415: the Example line. -/
theorem test_step_stXDec :
    seen (step (put (start 0x930E#16 0x0#16) [(27, 0x01#8), (16, 0xA5#8)])) (fun t => (Memory.read t.data 0x00FF, t.ptr
    .x, t.pc, t.cycles)) = some (0xA5#8, 0x00FF#16, 1#22, 2#64) := by
  decide +kernel

/-- R416: the Example line. -/
theorem test_step_stYInc :
    seen (step (put (start 0x9309#16 0x0#16) [(29, 0x01#8), (16, 0xA5#8)])) (fun t => (Memory.read t.data 0x0100, t.ptr
    .y, t.pc, t.cycles)) = some (0xA5#8, 0x0101#16, 1#22, 2#64) := by
  decide +kernel

/-- R417: the Example line. -/
theorem test_step_stYDec :
    seen (step (put (start 0x930A#16 0x0#16) [(29, 0x01#8), (16, 0xA5#8)])) (fun t => (Memory.read t.data 0x00FF, t.ptr
    .y, t.pc, t.cycles)) = some (0xA5#8, 0x00FF#16, 1#22, 2#64) := by
  decide +kernel

/-- R418: the Example line. -/
theorem test_step_stdY :
    seen (step (put (start 0x830D#16 0x0#16) [(29, 0x01#8), (16, 0xA5#8)])) (fun t => (Memory.read t.data 0x0105, t.ptr
    .y, t.pc, t.cycles)) = some (0xA5#8, 0x0100#16, 1#22, 2#64) := by
  decide +kernel

/-- R419: the Example line. -/
theorem test_step_stZInc :
    seen (step (put (start 0x9301#16 0x0#16) [(31, 0x01#8), (16, 0xA5#8)])) (fun t => (Memory.read t.data 0x0100, t.ptr
    .z, t.pc, t.cycles)) = some (0xA5#8, 0x0101#16, 1#22, 2#64) := by
  decide +kernel

/-- R420: the Example line. -/
theorem test_step_stZDec :
    seen (step (put (start 0x9302#16 0x0#16) [(31, 0x01#8), (16, 0xA5#8)])) (fun t => (Memory.read t.data 0x00FF, t.ptr
    .z, t.pc, t.cycles)) = some (0xA5#8, 0x00FF#16, 1#22, 2#64) := by
  decide +kernel

/-- R421: the Example line. -/
theorem test_step_stdZ :
    seen (step (put (start 0x8305#16 0x0#16) [(31, 0x01#8), (16, 0xA5#8)])) (fun t => (Memory.read t.data 0x0105, t.ptr
    .z, t.pc, t.cycles)) = some (0xA5#8, 0x0100#16, 1#22, 2#64) := by
  decide +kernel

/-- R423: the Example line. -/
theorem test_step_sts :
    seen (step (put (start 0x9300#16 0x1234#16) [(16, 0xC5#8)])) (fun t => (Memory.read t.data 0x1234, t.ptr .x, t.pc,
    t.cycles)) = some (0xC5#8, 0x0000#16, 2#22, 2#64) := by
  decide +kernel

/-- R424: the Example line. -/
theorem test_step_lpm :
    seen (step (word (put (start 0x95C8#16 0#16) [(30, 0x01#8), (31, 0x01#8)]) 0x0080 0xBEEF#16)) (fun t => (t.reg 0,
    t.ptr .z, t.rampz, t.cycles)) = some (0xBE#8, 0x0101#16, 0x00#8, 3#64) := by
  decide +kernel

/-- R425: the Example line. -/
theorem test_step_lpmZ :
    seen (step (word (put (start 0x9104#16 0#16) [(30, 0x00#8), (31, 0x01#8)]) 0x0080 0xBEEF#16)) (fun t => (t.reg 16,
    t.ptr .z, t.rampz, t.cycles)) = some (0xEF#8, 0x0100#16, 0x00#8, 3#64) := by
  decide +kernel

/-- R426: the Example line. -/
theorem test_step_lpmZInc :
    seen (step (word (put (start 0x9105#16 0#16) [(30, 0xFF#8), (31, 0xFF#8)]) 0x7FFF 0xBEEF#16)) (fun t => (t.reg 16,
    t.ptr .z, t.rampz, t.cycles)) = some (0xBE#8, 0x0000#16, 0x00#8, 3#64) := by
  decide +kernel

/-- R427: the Example line. -/
theorem test_step_elpm :
    seen (step (word ({ (put (start22 0x95D8#16 0#16) [(30, 0x01#8), (31, 0x00#8)]) with rampz := 0x01#8 }) 0x8000
    0xCAFE#16)) (fun t => (t.reg 0, t.ptr .z, t.rampz, t.cycles)) = some (0xCA#8, 0x0001#16, 0x01#8, 3#64) := by
  decide +kernel

/-- R428: the Example line. -/
theorem test_step_elpmZ :
    seen (step (word ({ (put (start22 0x9106#16 0#16) [(30, 0x00#8), (31, 0x00#8)]) with rampz := 0x01#8 }) 0x8000
    0xCAFE#16)) (fun t => (t.reg 16, t.ptr .z, t.rampz, t.cycles)) = some (0xFE#8, 0x0000#16, 0x01#8, 3#64) := by
  decide +kernel

/-- R429: the Example line. -/
theorem test_step_elpmZInc :
    seen (step (word (put (start22 0x9107#16 0#16) [(30, 0xFF#8), (31, 0xFF#8)]) 0x7FFF 0x1234#16)) (fun t => (t.reg 16,
    t.ptr .z, t.rampz, t.cycles)) = some (0x12#8, 0x0000#16, 0x01#8, 3#64) := by
  decide +kernel

/-- R430: the Example line. -/
theorem test_step_xch :
    seen (step (store (put (start 0x9304#16 0#16) [(31, 0x01#8), (16, 0x11#8)]) [(0x0100#16, 0x22#8)])) (fun t =>
    (Memory.read t.data 0x0100, t.reg 16, t.cycles)) = some (0x11#8, 0x22#8, 2#64) := by
  decide +kernel

/-- R431: the Example line. -/
theorem test_step_las :
    seen (step (store (put (start 0x9305#16 0#16) [(31, 0x01#8), (16, 0x0F#8)]) [(0x0100#16, 0xF0#8)])) (fun t =>
    (Memory.read t.data 0x0100, t.reg 16, t.cycles)) = some (0xFF#8, 0xF0#8, 2#64) := by
  decide +kernel

/-- R432: the Example line. -/
theorem test_step_lac :
    seen (step (store (put (start 0x9306#16 0#16) [(31, 0x01#8), (16, 0x0F#8)]) [(0x0100#16, 0xFF#8)])) (fun t =>
    (Memory.read t.data 0x0100, t.reg 16, t.cycles)) = some (0xF0#8, 0xFF#8, 2#64) := by
  decide +kernel

/-- R433: the Example line. -/
theorem test_step_lat :
    seen (step (store (put (start 0x9307#16 0#16) [(31, 0x01#8), (16, 0x0F#8)]) [(0x0100#16, 0xFF#8)])) (fun t =>
    (Memory.read t.data 0x0100, t.reg 16, t.cycles)) = some (0xF0#8, 0xFF#8, 2#64) := by
  decide +kernel

/-- R434: the Example line. -/
theorem test_step_push :
    seen (step (put { (start 0x925F#16 0#16) with sp := 0x08FF#16 } [(5, 0xA5#8)])) (fun t => (Memory.read t.data 0x08FF,
    t.sp, t.cycles)) = some (0xA5#8, 0x08FE#16, 2#64) := by
  decide +kernel

/-- R435: the Example line. -/
theorem test_step_pop :
    seen (step (store { (start 0x905F#16 0#16) with sp := 0x08FE#16 } [(0x08FF#16, 0xA5#8)])) (fun t => (t.reg 5, t.sp,
    t.cycles)) = some (0xA5#8, 0x08FF#16, 2#64) := by
  decide +kernel

/-- R435, R38. -/
theorem test_step_pop_wraps :
    seen (step (store { (start 0x905F#16 0#16) with sp := 0xFFFF#16 } [(0x0000#16, 0x5A#8)])) (fun t => (t.reg 5, t.sp)) =
    some (0x5A#8, 0x0000#16) := by
  decide +kernel

/-- R436: the Example line. -/
theorem test_step_in :
    seen (step (store (start 0xB70F#16 0#16) [(0x005F#16, 0x81#8)])) (regSregCycles 16) = some (0x81#8, 0x00#8, 1#64) := by
  decide +kernel

/-- R437: the Example line. -/
theorem test_step_out :
    seen (step (put (start 0xBF0D#16 0#16) [(16, 0x42#8)])) (fun t => (Memory.read t.data 0x005D, t.sp, t.cycles)) = some
    (0x42#8, 0x0000#16, 1#64) := by
  decide +kernel

/-- R505: the Example line. -/
theorem test_step_cbi :
    seen (step (store (start 0x982A#16 0#16) [(0x0025#16, 0xFF#8)])) (fun t => (Memory.read t.data 0x0025, t.accesses,
    t.cycles)) = some (0xFB#8, [.progRead 0, .dataRead 0x25, .dataWrite 0x25 0xFB#8], 2#64) := by
  decide +kernel

/-- R506: the Example line. -/
theorem test_step_sbi :
    seen (step (start 0x9AFF#16 0#16)) (fun t => (Memory.read t.data 0x003F, t.cycles)) = some (0x80#8, 2#64) := by
  decide +kernel

/-- R507: the Example line. -/
theorem test_step_nop :
    seen (step ({ (start 0x0000#16 0#16) with sp := 0x0FFF#16 })) (fun t => (t.pc, t.cycles, t.sp)) = some (0x000001#22,
    1#64, 0x0FFF#16) := by
  decide +kernel

/-- R510: the Example line. -/
theorem test_step_sleep :
    seen (step (start 0x9588#16 0#16)) (fun t => (t.pc, t.cycles, t.asleep)) = some (0x000001#22, 1#64, true) := by
  decide +kernel

/-- R512: the Example line. -/
theorem test_step_wdr :
    seen (step (start 0x95A8#16 0#16)) (fun t => (t.pc, t.cycles, t.accesses)) = some (0x000001#22, 1#64, [.progRead 0]) := by
  decide +kernel

/-- R511: the Example line. -/
theorem test_step_break :
    seen (step ({ State.reset with pc := 0x0010#22, sp := 0x08FF#16 }.placeInstr 0x9598#16 0x0#16)) (fun t => (t.pc,
    t.cycles, t.result)) = some (0x0011#22, 1#64, .err (.breakInterrupt 0x0010#22)) := by
  decide +kernel

/-- R513: the Example line. -/
theorem test_step_spm :
    seen (step (start 0x95E8#16 0#16)) (fun t => (t.pc, t.result, t.ptr .z)) = some (1#22, .err (.notImplemented 0#22
    0x95E8#16), 0x0000#16) := by
  decide +kernel

/-- R514: the Example line. -/
theorem test_step_spmZInc :
    seen (step (start 0x95F8#16 0#16)) (fun t => (t.pc, t.result, t.ptr .z)) = some (1#22, .err (.notImplemented 0#22
    0x95F8#16), 0x0000#16) := by
  decide +kernel

/-- R515: the Example line. -/
theorem test_step_des :
    seen (step (start 0x94FB#16 0#16)) (fun t => (t.pc, t.result, t.ptr .z)) = some (1#22, .err (.notImplemented 0#22
    0x94FB#16), 0x0000#16) := by
  decide +kernel

/-- R303, R603. -/
theorem test_step_eijmp_16 :
    seen (step (start 0x9419#16 0#16)) (fun t => (t.pc, t.result)) = some (1#22, .err (.invalidOperation 0#22 0x9419#16)) := by
  decide +kernel

/-- R414, R620. -/
theorem test_step_stXInc_unwritable :
    seen (step (region (put (start 0x930D#16 0#16) [(27, 0x01#8), (16, 0xA5#8)]) 0x0100 .readOnly)) (fun t => (t.ptr .x,
    t.pc, t.result)) = some (0x0101#16, 1#22, .err (.addressUnwritable 0x0100 0xA5#8)) := by
  decide +kernel

/-- R508. -/
theorem test_step_unknown_throws :
    seen (step (start 0x0001#16 0#16)) (fun t => (t.pc, t.result)) = some (1#22, .err (.unknownOpcode 0#22 0x0001#16)) := by
  decide +kernel

/-- R508. -/
theorem test_step_unknown_doNop :
    seen (step { (start 0x0001#16 0#16) with policy := .doNop }) (fun t => (t.pc, t.cycles, t.result)) = some (1#22, 1#64,
    .ok 1) := by
  decide +kernel

/-- R131, R731. -/
theorem test_step_own_pointer_refused :
    refusal (step (start 0x91AD#16 0#16)) = some (.ownPointer 0#22 0x91AD#16) := by
  decide +kernel

/-- R731: the Example line. -/
theorem test_step_skipped_own_pointer :
    seen (step (start 0x1000#16 0x91AD#16)) (fun t => (t.pc, t.cycles)) = some (2#22, 2#64) := by
  decide +kernel

/-- R96, log 12. -/
theorem test_step_reset_fetches_nothing :
    seen (step State.reset) (fun t => (t.pc, t.result)) = some (0#22, .err (.addressUnreadable .program 0)) := by
  decide +kernel

/-- R710, log 12. -/
theorem test_step_withFetchWord :
    seen (step (State.reset.withFetchWord 32 0x12349100)) (fun t => (t.pc, t.result, t.accesses)) = some (2#22, .ok 2,
    [.progRead 0, .progRead 1, .dataRead 0x1234]) := by
  decide +kernel

/-! ## Witnesses: for every obligation that has hypotheses, states and operands that meet them, clause by clause -/

/-- A state with a byte of data at 0x0100, plain memory everywhere but 0x0200 (absent) and 0x0300 (read-only). -/
def mixed : State := region (region (store State.reset [(0x0100#16, 0x5A#8)]) 0x0200 .absent) 0x0300 .readOnly

/-- The same with a 22-bit PC. -/
def mixed22 : State := { mixed with params := ⟨.pc22, false⟩ }

/-- WordsOfAnInstructionDecodeToIt: the ends of the short, tiny, even and pair fields. -/
theorem witness_words :
    (Instr.muls 16 31).wellFormed = true ∧ (Instr.fmulsu 16 23).wellFormed = true ∧
    (Instr.movw 0 30).wellFormed = true ∧ (Instr.sbiw 30 63#6).wellFormed = true ∧
    (Instr.add 31 0).wellFormed = true := by decide

/-- DecodedInstructionEncodesToItsWords: a short and a long word. -/
theorem witness_decoded :
    (decode 0xFFF7#16 0#16).isSome = true ∧ (decode 0x95FF#16 0xFFFF#16).isSome = true := by decide +kernel

/-- The encodings: each premise `op &&& mask = pattern` is met by the pattern itself, which every row admits. -/
theorem witness_encodes : opcodeTable.all (fun row => row.pattern &&& row.mask == row.pattern) = true := by decide +kernel

/-- StepRunsTheDecodedInstruction: a one-word instruction, and a long one whose second word is at address 0. -/
theorem witness_stepRuns :
    (start 0x0F01#16 0#16).asleep = false ∧ PlainWord (start 0x0F01#16 0#16) 0 0x0F01#16 ∧
    AnswersWord (begun (start 0x0F01#16 0#16)) (fetchAt (start 0x0F01#16 0#16)) 0x0F01#16 ∧
    isLong 0x0F01#16 = false ∧ (decode 0x0F01#16 0#16).isSome = true ∧
    PlainWord ({ State.reset with pc := 0xFFFF#22 }.placeInstr 0x9100#16 0x1234#16) 0xFFFF 0x9100#16 ∧
    isLong 0x9100#16 = true ∧ (maskPc .pc16 (0xFFFF#22 + 1#22)).toNat = 0 ∧
    PlainWord ({ State.reset with pc := 0xFFFF#22 }.placeInstr 0x9100#16 0x1234#16) 0 0x1234#16 ∧
    (decode 0x9100#16 0x1234#16).isSome = true := by
  unfold PlainWord AnswersWord
  decide +kernel

/-- StepRunsTheDecodedInstruction, FetchOfAMissingWordFails: the empty program, and a program of one long word, with and
without its second word. -/
theorem witness_fetchMissing :
    State.reset.asleep = false ∧ SilentWord (begun State.reset) (fetchAt State.reset) ∧
    AnswersWord (begun (word State.reset 0 0x9100#16)) (fetchAt (word State.reset 0 0x9100#16)) 0x9100#16 ∧
    isLong 0x9100#16 = true ∧
    SilentWord (fetched (begun (word State.reset 0 0x9100#16)))
      (fetchAt (fetched (begun (word State.reset 0 0x9100#16)))) ∧
    AnswersWord (fetched (begun (start 0x9100#16 0x1234#16))) (fetchAt (fetched (begun (start 0x9100#16 0x1234#16))))
      0x1234#16 := by
  unfold SilentWord AnswersWord
  decide +kernel

/-- UnknownWordFollowsThePolicy: a word that no row admits, under each of the three policies. -/
theorem witness_unknownWord :
    (start 0x0001#16 0#16).asleep = false ∧ (start 0x0001#16 0#16).pcInRange = true ∧
    AnswersWord (begun (start 0x0001#16 0#16)) (fetchAt (start 0x0001#16 0#16)) 0x0001#16 ∧
    (start 0x0001#16 0#16).policy = .throwException ∧
    { start 0x0001#16 0#16 with policy := .doNop }.policy = .doNop ∧
    { start 0x0001#16 0#16 with policy := .emulatePhysical }.policy = .emulatePhysical := by
  unfold AnswersWord
  decide +kernel

/-- The word's premise, for every second word. -/
theorem witness_unknownWord_decode (op2 : Word) : decode 0x0001#16 op2 = none := by
  have h : opcodeTable.find? (fun row => row.admits 0x0001#16) = none := by
    rw [List.find?_eq_none]
    have := List.all_eq_true.1 (show opcodeTable.all (fun row => !row.admits 0x0001#16) = true by decide +kernel)
    simpa using this
  simp [decode, h]

/-- SleepIsEnteredBySleepAndLeftByReset: a Step that ends asleep, and a state asleep. -/
theorem witness_sleep :
    seen (step (start 0x9588#16 0#16)) (fun t => t.asleep) = some true ∧ (start 0x9588#16 0#16).asleep = false ∧
    { State.reset with asleep := true }.asleep = true ∧ HostOp.writeSp 0#16 ≠ .reset := by decide +kernel

/-- StepKeepsTheStateWellFormed, HostOperationsKeepTheStateWellFormed: the pc at both ends of both widths. -/
theorem witness_wf :
    State.reset.wf = true ∧ { State.reset with pc := 0xFFFF#22 }.wf = true ∧
    { State.reset with pc := 0x10000#22 }.wf = false ∧
    { State.reset with params := ⟨.pc22, false⟩, pc := 0x3FFFFF#22 }.wf = true ∧
    mixed.wf = true ∧ { State.reset with data := [(0x0100, 0x00#8)] }.wf = false ∧
    { State.reset with data := [(0x10000, 0x01#8)] }.wf = false := by decide +kernel

/-- OnlyTheTwentyEightWordsAreRefused: a refused Step and one that is not. -/
theorem witness_refused :
    (start 0x91AD#16 0#16).pcInRange = true ∧ refusal (step (start 0x91AD#16 0#16)) = some (.ownPointer 0#22 0x91AD#16) ∧
    refusal (step (start 0x900D#16 0#16)) = none ∧ 0x91AD#16 ∈ ownPointerWords ∧
    AnswersWord (start 0x91AD#16 0#16) (fetchAt (start 0x91AD#16 0#16)) 0x91AD#16 := by
  unfold AnswersWord
  decide +kernel

/-- StepNeverWritesHostOwnedState, StepAccountsForItsCycles: a Step that succeeds, one asleep and one that fails. -/
theorem witness_step :
    seen (step (start 0x0000#16 0#16)) (fun t => t.result) = some (.ok 1) ∧
    seen (step { State.reset with asleep := true }) (fun t => t.result) = some (.ok 0) ∧
    seen (step State.reset) (fun t => t.result) = some (.err (.addressUnreadable .program 0)) := by decide +kernel

/-- DataChangesOnlyWhereAWriteWasOffered, StepNeverWritesHostOwnedState: a Step that accesses no oracle's address, after
which a byte reads otherwise; and an access of an oracle's address, which the condition shuts out. -/
theorem witness_dataChanges :
    seen (step (put (start 0x930C#16 0#16) [(27, 0x01#8), (16, 0xA5#8)]))
      (fun t => (Memory.read t.data 0x0100, t.accesses)) = some (0xA5#8, [.progRead 0, .dataWrite 0x0100 0xA5#8]) ∧
    Memory.read (put (start 0x930C#16 0#16) [(27, 0x01#8), (16, 0xA5#8)]).data 0x0100 = 0x00#8 ∧
    Undisturbed (put (start 0x930C#16 0#16) [(27, 0x01#8), (16, 0xA5#8)]) [.progRead 0, .dataWrite 0x0100 0xA5#8] ∧
    ¬Undisturbed (region mixed 0x0400 .oracle) [.dataRead 0x0400] := by
  unfold Undisturbed
  decide +kernel

/-- FlagsChangeOnlyByTheirWriters, RegistersChangeOnlyByTheirWriters, SpRampzAndSleepHaveFewWriters,
SignFlagFollowsArithmetic: instructions that complete, with what each does not write. -/
theorem witness_writers :
    (seen (exec (.inc 16) mixed) (fun t => t.pc)).isSome = true ∧
    writesFlag (.inc 16) 0 = false ∧ writesFlag (.inc 16) 5 = false ∧ writesFlag (.bset 4) 3 = false ∧
    writesReg (.inc 16) 15 = false ∧ writesReg (.mul 16 17) 16 = false ∧ writesReg (.ldXInc 0) 28 = false ∧
    usesStack (.inc 16) = false ∧ updatesNV (.inc 16) = true ∧ updatesNV (.mul 16 17) = false := by decide +kernel

/-- SpRampzAndSleepHaveFewWriters, SignFlagFollowsArithmetic: the exclusions leave something. -/
theorem witness_exclusions :
    (∀ d, Instr.inc 16 ≠ .elpmZInc d) ∧ Instr.inc 16 ≠ .sleep ∧
    (∀ b, Instr.mul 16 17 ≠ .bset b) ∧ ∀ b, Instr.mul 16 17 ≠ .bclr b := by
  refine ⟨?_, ?_, ?_, ?_⟩ <;> simp

/-- How a Run ended. -/
def ranTo (r : RunResult) : Option (Nat × Bool) :=
  match r with
  | .ok acc t => some (acc, t.asleep)
  | .err _ _ | .refused _ | .outOfFuel _ => none

/-- RunStopsAtItsBudgetOrAsleep: a Run past its budget, one that falls asleep, one without a budget, one asleep. -/
theorem witness_run :
    ranTo (runFor 1#64 (start 0xC005#16 0#16)) = some (2, false) ∧
    ranTo (runFor 9#64 (start 0x9588#16 0#16)) = some (1, true) ∧
    ranTo (runFor 0#64 State.reset) = some (0, false) ∧
    ranTo (runFor 9#64 { State.reset with asleep := true }) = some (0, true) := by decide +kernel

/-- RunStopsAtItsBudgetOrAsleep: a Step that succeeds, then one that fails for want of a word. -/
theorem witness_run_fails : ∃ u t f, Stepped 1 1 (word State.reset 0 0x0000#16) u ∧ 1 < (9#64).toNat ∧
    u.asleep = false ∧ step u = .next t ∧ t.result = .err f :=
  ⟨_, _, _, ⟨_, 1, 0, rfl, rfl, rfl, rfl, rfl, rfl⟩, by decide, rfl, rfl, rfl⟩

/-- RunStopsAtItsBudgetOrAsleep: a Step that succeeds, then a refused word. -/
theorem witness_run_refused : ∃ u r, Stepped 1 1 (word (word State.reset 0 0x0000#16) 1 0x91AD#16) u ∧
    u.asleep = false ∧ step u = .refused r :=
  ⟨_, _, ⟨_, 1, 0, rfl, rfl, rfl, rfl, rfl, rfl⟩, rfl, rfl⟩

/-- PlainMemoryReadsTheLastWrite: two addresses of plain memory, and a byte read at the other one. -/
theorem witness_plainMemory :
    regionKind mixed.regions 0x0000 = .ram ∧ regionKind mixed.regions 0x0100 = .ram ∧
    regionKind mixed.regions 0xFFFF = .ram ∧ (0x0100#16 : Word) ≠ 0x0000#16 ∧
    (readDataMemory 0x0100#16 mixed).1 = some 0x5A#8 := by decide +kernel

/-- The port's four answers, on which the premises of every data access rest: a byte read, no byte, a byte taken, a byte
refused. -/
theorem witness_port :
    (readDataMemory 0x0100#16 mixed).1 = some 0x5A#8 ∧ (readDataMemory 0x0200#16 mixed).1 = none ∧
    (readDataMemory 0x0300#16 mixed).1 = some 0x00#8 ∧
    (writeDataMemory 0x0100#16 0x11#8 mixed).1 = true ∧ (writeDataMemory 0x0200#16 0x11#8 mixed).1 = false ∧
    (writeDataMemory 0x0300#16 0x11#8 mixed).1 = false := by decide +kernel

/-- LogicResultsAndFlags, ShiftsAndSwapResultsAndFlags, the multiplies: each alternative of the premise. -/
theorem witness_alternatives :
    (∃ i res, (i = Instr.and 16 17 ∧ res = mixed.reg 16 &&& mixed.reg 17)) ∧
    (∃ i res, (i = Instr.andi 31 0xFF#8 ∧ res = mixed.reg 31 &&& 0xFF#8)) ∧
    (∃ i res, (i = Instr.or 0 31 ∧ res = mixed.reg 0 ||| mixed.reg 31)) ∧
    (∃ i res, (i = Instr.ori 16 0x80#8 ∧ res = mixed.reg 16 ||| 0x80#8)) ∧
    (∃ i res, (i = Instr.eor 5 5 ∧ res = mixed.reg 5 ^^^ mixed.reg 5)) ∧
    (∃ i top, (i = Instr.lsr 0 ∧ top = false)) ∧ (∃ i top, (i = Instr.asr 0 ∧ top = (mixed.reg 0).getLsbD 7)) ∧
    (∃ i top, (i = Instr.ror 31 ∧ top = mixed.sreg.c)) ∧
    (∃ i, i = Instr.mul 0 1) ∧ (∃ i, i = Instr.muls 16 31) ∧ (∃ i, i = Instr.mulsu 16 23) ∧
    (∃ i, i = Instr.fmul 23 16) ∧ (∃ i, i = Instr.fmuls 16 23) ∧ ∃ i, i = Instr.fmulsu 23 23 :=
  ⟨⟨_, _, rfl, rfl⟩, ⟨_, _, rfl, rfl⟩, ⟨_, _, rfl, rfl⟩, ⟨_, _, rfl, rfl⟩, ⟨_, _, rfl, rfl⟩, ⟨_, _, rfl, rfl⟩,
    ⟨_, _, rfl, rfl⟩, ⟨_, _, rfl, rfl⟩, ⟨_, rfl⟩, ⟨_, rfl⟩, ⟨_, rfl⟩, ⟨_, rfl⟩, ⟨_, rfl⟩, ⟨_, rfl⟩⟩

/-- WordFlagsMeanCarryBorrowOverflow: a word of a pair. -/
theorem witness_pairWord : (0x0000#16 : Word) = mixed.reg 25 ++ mixed.reg 24 := by decide

/-- JumpsWriteTheirTarget, ElpmLoadsThroughRampzAndZ and the calls: both widths of the PC. -/
theorem witness_pcWidths : mixed.params.pcWidth = .pc16 ∧ mixed22.params.pcWidth = .pc22 := by decide

/-- CallsPushTheReturnAddress: the writes of a call taken, at both widths and with SP wrapping below 0. -/
theorem witness_calls :
    TakesAll (returnPushes .pc16 0x0000#16 0x1234#22) mixed ∧
    TakesAll (returnPushes .pc22 0x0001#16 0x3FFFFF#22) mixed22 ∧
    Undisturbed mixed (offers (returnPushes .pc16 0x0000#16 0x1234#22)) ∧
    Undisturbed mixed22 (offers (returnPushes .pc22 0x0001#16 0x3FFFFF#22)) := by
  refine ⟨⟨?_, ?_, trivial⟩, ⟨?_, ?_, ?_, trivial⟩, ?_, ?_⟩ <;>
    first | (unfold Takes; decide +kernel) | (unfold Undisturbed; decide +kernel)

/-- FailedPushLeavesACallHalfDone: the first, the second and the third push refused. -/
theorem witness_failedPush :
    Rejects mixed 0x0200#16 0x34#8 ∧
    (Takes mixed 0x0201#16 0x34#8 ∧ Rejects (writeDataMemory 0x0201#16 0x34#8 mixed).2 0x0200#16 0x12#8) ∧
    (TakesAll [(0x0202#16, 0x34#8), (0x0201#16, 0x12#8)] mixed22 ∧
      Rejects (writeDataMemory 0x0201#16 0x12#8 (writeDataMemory 0x0202#16 0x34#8 mixed22).2).2 0x0200#16 0x00#8) ∧
    HoldsWrites mixed 0x0201#16 ∧ Undisturbed mixed (offers (returnPushes .pc16 0x0201#16 0x1234#22)) ∧
    HoldsWrites mixed22 0x0202#16 ∧ Undisturbed mixed22 (offers (returnPushes .pc22 0x0202#16 0x1234#22)) := by
  refine ⟨?_, ⟨?_, ?_⟩, ⟨⟨?_, ?_, trivial⟩, ?_⟩, ?_, ?_, ?_, ?_⟩ <;>
    first
      | (unfold Rejects; decide +kernel)
      | (unfold Takes; decide +kernel)
      | (unfold HoldsWrites; decide +kernel)
      | (unfold Undisturbed; decide +kernel)

/-- ReturnsPopThePc: the reads answered, at both widths and with SP wrapping; the first, second and third unanswered. -/
theorem witness_returns :
    AnswersAll [(0xFFFF#16, 0x00#8), (0x0000#16, 0x00#8)] mixed ∧
    AnswersAll [(0x00FF#16, 0x00#8), (0x0100#16, 0x5A#8), (0x0101#16, 0x00#8)] mixed22 ∧
    Silent mixed 0x0200#16 ∧
    (Answers mixed 0x01FF#16 0x00#8 ∧ Silent (readDataMemory 0x01FF#16 mixed).2 0x0200#16) ∧
    (AnswersAll [(0x01FE#16, 0x00#8), (0x01FF#16, 0x00#8)] mixed22 ∧
      Silent (readDataMemory 0x01FF#16 (readDataMemory 0x01FE#16 mixed22).2).2 0x0200#16) := by
  refine ⟨⟨?_, ?_, trivial⟩, ⟨?_, ?_, ?_, trivial⟩, ?_, ⟨?_, ?_⟩, ⟨?_, ?_, trivial⟩, ?_⟩ <;>
    first | (unfold Answers; decide +kernel) | (unfold Silent; decide +kernel)

/-- CallThenReturnRestoresPcAndSp: a call in plain memory that completes, at both widths. -/
theorem witness_callReturn :
    mixed.pcInRange = true ∧ mixed22.pcInRange = true ∧
    (returnPushes .pc16 0x0000#16 0#22).all (fun x => regionKind mixed.regions x.1.toNat == .ram) = true ∧
    (returnPushes .pc22 0x0000#16 0#22).all (fun x => regionKind mixed22.regions x.1.toNat == .ram) = true ∧
    (seen (exec .icall mixed) (fun t => t.sp)) = some 0xFFFE#16 ∧
    (seen (exec .eicall mixed22) (fun t => t.sp)) = some 0xFFFD#16 := by decide +kernel

/-- BranchesTestOneFlag: each of the four premises, at the first and the last flag. -/
theorem witness_branches :
    (flags mixed 0x81#8).sreg.toByte.getLsbD 0 = true ∧ (flags mixed 0x81#8).sreg.toByte.getLsbD 7 = true ∧
    (flags mixed 0x7E#8).sreg.toByte.getLsbD 0 = false ∧ (flags mixed 0x7E#8).sreg.toByte.getLsbD 7 = false := by
  decide

/-- SkipsPassTheNextInstruction: the condition true and false, the next word short, long and missing, and the highest I/O
address, answered and not. -/
theorem witness_skips :
    decide (mixed.reg 0 = mixed.reg 31) = true ∧ decide ((put mixed [(0, 1#8)]).reg 0 = mixed.reg 31) = false ∧
    AnswersWord (start 0x0000#16 0#16) (fetchAt (start 0x0000#16 0#16)) 0x0000#16 ∧ isLong 0x0000#16 = false ∧
    AnswersWord (start 0x940E#16 0#16) (fetchAt (start 0x940E#16 0#16)) 0x940E#16 ∧ isLong 0x940E#16 = true ∧
    SilentWord mixed (fetchAt mixed) ∧ (0x003F#16 : Word).toNat = 0x20 + (31#5).toNat ∧
    (readDataMemory 0x003F#16 mixed).1 = some 0x00#8 ∧
    (readDataMemory 0x003F#16 (region mixed 0x003F .absent)).1 = none := by
  unfold AnswersWord SilentWord
  decide +kernel

/-- The auto-modify forms: a register that is a byte of the pointer at each end, and ones just outside it. -/
theorem witness_ownPointer :
    Ptr.x.isByte 26 = true ∧ Ptr.x.isByte 27 = true ∧ Ptr.x.isByte 25 = false ∧ Ptr.x.isByte 28 = false ∧
    Ptr.y.isByte 28 = true ∧ Ptr.y.isByte 29 = true ∧ Ptr.y.isByte 27 = false ∧ Ptr.y.isByte 30 = false ∧
    Ptr.z.isByte 30 = true ∧ Ptr.z.isByte 31 = true ∧ Ptr.z.isByte 29 = false ∧ Ptr.z.isByte 0 = false := by decide

/-- PlainLoadsReadOneByte, AutoModifyLoadsWriteThePointerFirst, PushAndPopMoveSp, InAndOutAccessDataAddresses: an address a
load reaches, answered and not, the pointer wrapping at both ends. -/
theorem witness_loads :
    Answers (put mixed [(27, 0x01#8)]) 0x0100#16 0x5A#8 ∧ (put mixed [(27, 0x01#8)]).ptr .x = 0x0100#16 ∧
    Silent (put mixed [(27, 0x02#8)]) 0x0200#16 ∧ (put mixed [(27, 0x02#8)]).ptr .x = 0x0200#16 ∧
    Answers mixed 0xFFFF#16 0x00#8 ∧ mixed.ptr .y - 1#16 = 0xFFFF#16 ∧ Answers mixed 0x0000#16 0x00#8 ∧
    (0x0020#16 : Word).toNat = 0x20 + (0#6).toNat ∧ (0x005F#16 : Word).toNat = 0x20 + (63#6).toNat ∧
    Answers mixed 0x005F#16 0x00#8 := by
  refine ⟨?_, ?_, ?_, ?_, ?_, ?_, ?_, ?_, ?_, ?_⟩ <;>
    first | decide +kernel | (unfold Answers; decide +kernel) | (unfold Silent; decide +kernel)

/-- PlainStoresWriteOneByte, AutoModifyStoresWriteThePointerFirst, PushAndPopMoveSp, InAndOutAccessDataAddresses: a byte
taken, and one refused by an address that can be read and by one that is not there. -/
theorem witness_stores :
    Takes mixed 0x0000#16 (mixed.reg 16) ∧ Takes mixed 0xFFFF#16 (mixed.reg 16) ∧ HoldsWrites mixed 0x0000#16 ∧
    Rejects mixed 0x0300#16 (mixed.reg 16) ∧ Rejects mixed 0x0200#16 (mixed.reg 16) := by
  refine ⟨?_, ?_, ?_, ?_, ?_⟩ <;>
    first | (unfold Takes; decide +kernel) | (unfold HoldsWrites; decide +kernel) | (unfold Rejects; decide +kernel)

/-- OwnPointerFormsAreRefused: one form of each group. -/
theorem witness_ownForms :
    ((26 : Reg) = 26 ∧ Instr.ldXInc 26 = .ldXInc 26) ∧ ((29 : Reg) = 29 ∧ Instr.stYDec 29 = .stYDec 29) ∧
    ((31 : Reg) = 31 ∧ Instr.elpmZInc 31 = .elpmZInc 31) := by decide

/-- LpmLoadsAByteOfAProgramWord, ElpmLoadsThroughRampzAndZ: a program word the highest byte address names, and one that is
missing. -/
theorem witness_lpm :
    (put mixed [(30, 0xFF#8), (31, 0xFF#8)]).ptr .z = 0xFFFF#16 ∧
    (0x7FFF#32).toNat = 0xFFFF / 2 ∧ AnswersWord (word mixed 0x7FFF 0xBEEF#16) 0x7FFF#32 0xBEEF#16 ∧
    (0x7FFFFF#32).toNat = (0xFF * 65536 + 0xFFFF) / 2 ∧
    AnswersWord (word mixed22 0x7FFFFF 0xCAFE#16) 0x7FFFFF#32 0xCAFE#16 ∧ SilentWord mixed 0x7FFF#32 := by
  unfold AnswersWord SilentWord
  decide +kernel

/-- ExchangesReadThenWriteAtZ, CbiAndSbiReadThenWriteTheByte: a byte read and then taken, a byte read and then refused, and
one not answered. -/
theorem witness_exchanges :
    (Answers mixed 0x0100#16 0x5A#8 ∧ Takes (readDataMemory 0x0100#16 mixed).2 0x0100#16 0xFF#8) ∧
    (Answers mixed 0x0300#16 0x00#8 ∧ Rejects (readDataMemory 0x0300#16 mixed).2 0x0300#16 0xFF#8) ∧
    Silent mixed 0x0200#16 ∧ (0x0100#16 : Word) = (put mixed [(31, 0x01#8)]).reg 31 ++ (put mixed [(31, 0x01#8)]).reg 30 ∧
    (Answers (region mixed 0x003F .readOnly) 0x003F#16 0x00#8 ∧
      Rejects (readDataMemory 0x003F#16 (region mixed 0x003F .readOnly)).2 0x003F#16 0x80#8) ∧
    ∀ k : Fin 8, (0x80#8 : Byte).getLsbD k = if k.val = 7 then true else (0x00#8 : Byte).getLsbD k := by
  refine ⟨⟨?_, ?_⟩, ⟨?_, ?_⟩, ?_, ?_, ⟨?_, ?_⟩, ?_⟩ <;>
    first
      | decide +kernel
      | (unfold Answers; decide +kernel)
      | (unfold Takes; decide +kernel)
      | (unfold Rejects; decide +kernel)
      | (unfold Silent; decide +kernel)

/-- PushThenPopRestoresRegisterAndSp: SP in plain memory and a push that completes. -/
theorem witness_pushPop :
    regionKind mixed.regions mixed.sp.toNat = .ram ∧ (seen (exec (.push 5) mixed) (fun t => t.sp)) = some 0xFFFF#16 := by
  decide +kernel

/-- Safety: a run of two Steps that both succeed. -/
theorem witness_safeRun : ∃ t, SafeRun 2 (word (start 0x0000#16 0#16) 1 0x0000#16) t :=
  ⟨_, _, rfl, rfl, _, rfl, rfl, rfl⟩

/-- The memories of the reset state are canonical (log 8, log 9). -/
theorem test_reset_memory : Memory.wf State.reset.data = true ∧ Program.wf State.reset.prog = true := by decide

end Sys2Proof.Tests
end

section
/-! PROOFS of the family of 00_scope.md: a Step fetches and then runs what is decoded, a fetch of a missing word fails, and
what a Step leaves of the host's properties and of the backend. -/

namespace Sys2Proof.Machine

/-! ## What a Step leaves of the state it begins in, as instances of `Closed` -/

/-- The core's fields that only the host writes are those of `s` (R6, R50, R52, R55). -/
def HostFieldsKept (s t : State) : Prop :=
  t.params = s.params ∧ t.eind = s.eind ∧ t.rampx = s.rampx ∧ t.rampy = s.rampy ∧ t.policy = s.policy

/-- No update of an instruction writes a field of the host's. -/
theorem closed_hostFieldsKept (s : State) : Closed .all (HostFieldsKept s) (HostFieldsKept s) where
  setReg _ _ _ _ h := h
  setRampz _ _ _ h := h
  setSreg _ _ _ h := h
  setPc _ _ h := h
  setSp _ _ _ h := h
  called _ _ h := h
  wrote _ _ _ _ h := h
  drawn _ _ h := h
  oracle _ _ _ h := h
  finish _ _ _ _ h := h
  failed _ f h := by cases f <;> exact h

/-- A call that is recorded after others does not make the others undisturbed. -/
theorem Undisturbed.of_append {s : State} {xs ys : List BusAccess} (h : Undisturbed s (xs ++ ys)) : Undisturbed s xs :=
  fun x hx => h x (List.mem_append_left ys hx)

/-- The kind of a call is decided by the two maps alone. -/
theorem BusAccess.kind_congr {s t : State} (x : BusAccess) (hr : t.regions = s.regions)
    (hp : t.progRegions = s.progRegions) : x.kind t = x.kind s := by
  cases x <;> simp only [BusAccess.kind, hr, hp]

/-- A recorded call with no effect on the backend keeps it. -/
theorem BackendKept.called {s u : State} (h : BackendKept u.accesses s u) (x : BusAccess) :
    BackendKept (u.called x).accesses s (u.called x) := by
  intro hu
  obtain ⟨hp, hr, hpr, hd⟩ := h hu.of_append
  exact ⟨hp, hr, hpr, fun b hb => hd b fun v hv => hb v (List.mem_append_left _ hv)⟩

/-- A recorded write changes the byte at its own address at most. -/
theorem BackendKept.wrote {s u : State} (h : BackendKept u.accesses s u) (a : Word) (v b : Byte) :
    BackendKept (u.called (.dataWrite a.toNat v)).accesses s ((u.called (.dataWrite a.toNat v)).keepByte a b) := by
  intro hu
  obtain ⟨hp, hr, hpr, hd⟩ := h.called _ hu
  refine ⟨hp, hr, hpr, fun c hc => ?_⟩
  have hne : c ≠ a.toNat := fun e => hc v (e ▸ List.mem_append_right _ (List.mem_singleton_self _))
  exact (Memory.read_write_of_ne _ hne b).trans (hd c hc)

/-- After a recorded access of an oracle's address the record is no undisturbed one: the maps by which it is judged are
still those of `s`. -/
theorem BackendKept.oracle {s u : State} (h : BackendKept u.accesses s u) {x : BusAccess} (hx : x.kind u = .oracle) :
    BackendKept (u.called x).accesses s ((u.called x).disturbed x) := by
  intro hu
  obtain ⟨-, hr, hpr, -⟩ := h hu.of_append
  have hs : x.kind s = .oracle := (x.kind_congr hr hpr).symm.trans hx
  exact absurd hs (hu x (List.mem_append_right _ (List.mem_singleton_self x)))

/-- Every update of an instruction keeps the backend but for the calls it records. -/
theorem closed_backendKept (s : State) :
    Closed .all (fun t => BackendKept t.accesses s t) (fun t => BackendKept t.accesses s t) where
  setReg _ _ _ _ h := h
  setRampz _ _ _ h := h
  setSreg _ _ _ h := h
  setPc _ _ h := h
  setSp _ _ _ h := h
  called _ x h := h.called x
  wrote _ a v b h := h.wrote a v b
  drawn _ _ h := h
  oracle _ _ hx h := h.oracle hx
  finish _ _ _ _ h := h
  failed _ f h := by cases f <;> exact h

/-- No Step writes a field of the host's. -/
theorem step_hostFieldsKept {s t : State} (h : step s = .next t) : HostFieldsKept s t := by
  have hbegin : HostFieldsKept s (beginStep s) := ⟨rfl, rfl, rfl, rfl, rfl⟩
  cases hs : s.asleep with
  | true =>
    rw [step_asleep hs] at h
    cases h
    exact hbegin
  | false => exact (closed_hostFieldsKept s).keeps_step hs hbegin (fun _ hu => hu) t h

/-- A Step changes the backend only as the calls of its own record may (R8, R89; log 10). -/
theorem step_backendKept {s t : State} (h : step s = .next t) : BackendKept t.accesses s t := by
  have hbegin : BackendKept [] s (beginStep s) := fun _ => ⟨rfl, rfl, rfl, fun _ _ => rfl⟩
  cases hs : s.asleep with
  | true =>
    rw [step_asleep hs] at h
    cases h
    exact hbegin
  | false => exact (closed_backendKept s).keeps_step hs hbegin (fun _ hu => hu) t h

/-- Settles O12: each of the two parts is an invariant closed under every update a Step makes. -/
theorem stepNeverWritesHostOwnedState : Obligations.StepNeverWritesHostOwnedState := by
  intro s t h
  obtain ⟨hparams, heind, hrampx, hrampy, hpolicy⟩ := step_hostFieldsKept h
  refine ⟨hparams, heind, hrampx, hrampy, hpolicy, fun hu => ?_⟩
  obtain ⟨hprog, hregions, hprogRegions, -⟩ := step_backendKept h hu
  exact ⟨hprog, hregions, hprogRegions⟩

/-- Settles O14: a byte that no recorded write names is kept. -/
theorem dataChangesOnlyWhereAWriteWasOffered : Obligations.DataChangesOnlyWhereAWriteWasOffered := by
  intro s t a h hu hchanged
  obtain ⟨-, -, -, hdata⟩ := step_backendKept h hu
  by_contra hnone
  exact hchanged (hdata a fun v hv => hnone ⟨v, hv⟩)

/-! ## The fetch, in the words of the statements -/

/-- What a fetch changes: one program read, the pc one on (R78, R33). -/
theorem called_fetched (s : State) :
    Called [.progRead s.pc.toNat] { s with pc := maskPc s.params.pcWidth (s.pc + 1#22) } (fetched s) := by
  have h := (called_readProgramMemory (fetchAt s) s).setPc (s.pc + 1#22)
  rwa [fetchAt, fetchAddr_toNat] at h

@[simp] theorem fetched_pc (s : State) : (fetched s).pc = maskPc s.params.pcWidth (s.pc + 1#22) := (called_fetched s).pc

/-- After the calls `xs`, a fetch that the backend does not answer ends the Step in the failure of that word (R75, R78). -/
theorem fetchWord_silent {xs : List BusAccess} {u v : State} (hc : Called xs u v) (h : SilentWord v (fetchAt v))
    (k : Word → State → Outcome) : ∃ t, fetchWord v k = .next t ∧
      FailedAfter (.addressUnreadable .program v.pc.toNat) (xs ++ [.progRead v.pc.toNat]) u t := by
  have hread := called_readProgramMemory (fetchAt v) v
  rw [fetchAt, fetchAddr_toNat] at hread
  exact ⟨_, fetchWord_none h k, (hc.trans hread).failed nofun⟩

/-- A one-word instruction is handed on after one fetch. -/
theorem fetchInstr_short {s : State} {op : Word} (h : AnswersWord s (fetchAt s) op) (hl : isLong op = false)
    (k : Word → Word → State → Outcome) : fetchInstr s k = k op 0#16 (fetched s) := by
  simp only [fetchInstr, fetchWord_some h, hl]
  rfl

/-- After a long first word the second is fetched. -/
theorem fetchInstr_long {s : State} {op : Word} (h : AnswersWord s (fetchAt s) op) (hl : isLong op = true)
    (k : Word → Word → State → Outcome) : fetchInstr s k = fetchWord (fetched s) (k op) := by
  simp only [fetchInstr, fetchWord_some h, hl]
  rfl

/-- The statements' word for the state a Step begins in. -/
theorem beginStep_eq_begun (s : State) : beginStep s = begun s := rfl

/-- A Step runs the one-word instruction fetched. -/
theorem step_short {s : State} {op : Word} {i : Instr} (hs : s.asleep = false) (h : AnswersWord (begun s) (fetchAt s) op)
    (hl : isLong op = false) (hd : decode op 0#16 = some i) : step s = exec i (fetched (begun s)) := by
  rw [step_awake hs, beginStep_eq_begun, fetchInstr_short h hl, hd]

/-- A Step runs the two-word instruction fetched. -/
theorem step_long {s : State} {op op2 : Word} {i : Instr} (hs : s.asleep = false)
    (h : AnswersWord (begun s) (fetchAt s) op) (hl : isLong op = true)
    (h2 : AnswersWord (fetched (begun s)) (fetchAt (fetched (begun s))) op2) (hd : decode op op2 = some i) :
    step s = exec i (fetched (fetched (begun s))) := by
  rw [step_awake hs, beginStep_eq_begun, fetchInstr_long h hl, fetchWord_some h2, hd]
  rfl

/-- Plain program memory answers a fetch with the word that exists there. -/
theorem answersWord_of_plainWord {s : State} {w : Word} (h : PlainWord s s.pc.toNat w) : AnswersWord s (fetchAt s) w := by
  obtain ⟨hkind, hword⟩ := h
  rw [← fetchAddr_toNat] at hkind hword
  rw [AnswersWord, fetchAt, readProgramMemory_held hkind]
  exact hword

/-- The state after a fetch from plain program memory, written out. -/
theorem fetched_of_plainWord {s : State} {w : Word} (h : PlainWord s s.pc.toNat w) :
    fetched s = (s.called (.progRead s.pc.toNat)).setPc (s.pc + 1#22) := by
  obtain ⟨hkind, -⟩ := h
  rw [← fetchAddr_toNat] at hkind
  rw [fetched, fetchAt, readProgramMemory_held hkind, fetchAddr_toNat]

/-- Settles O4, from the fetch of one word and of two. -/
theorem stepRunsTheDecodedInstruction : Obligations.StepRunsTheDecodedInstruction := by
  refine ⟨fun s op i hs h => ⟨step_short hs h, fun hl op2 => step_long hs h hl⟩, called_fetched, fun s op i hs hw => ?_⟩
  have h : AnswersWord (begun s) (fetchAt s) op := answersWord_of_plainWord (s := begun s) hw
  have hone : fetched (begun s) = fetchedOne s := fetched_of_plainWord (s := begun s) hw
  refine ⟨fun hl hd => hone ▸ step_short hs h hl hd, fun hl op2 hw2 hd => ?_⟩
  have htwo : fetched (fetchedOne s) = fetchedTwo s := by
    rw [fetched_of_plainWord (s := fetchedOne s) hw2, fetchedTwo, ← maskPc_succ_succ]
    rfl
  have h2 : AnswersWord (fetched (begun s)) (fetchAt (fetched (begun s))) op2 := by
    rw [hone]
    exact answersWord_of_plainWord (s := fetchedOne s) hw2
  rw [step_long hs h hl h2 hd, hone, htwo]

/-- Settles O5: the failing read is the last of the calls made, and the failure ends the Step after it. -/
theorem fetchOfAMissingWordFails : Obligations.FetchOfAMissingWordFails := by
  intro s hs
  rw [step_awake hs, beginStep_eq_begun]
  constructor
  · intro h
    exact fetchWord_silent (called_nil (begun s)) h _
  · intro op h hl h2
    have hfail := fetchWord_silent (called_fetched (begun s)) h2
    rw [fetched_pc] at hfail
    rw [fetchInstr_long h hl]
    exact hfail _

end Sys2Proof.Machine
end

section
/-! PROOFS of the family of 10_state.md: what a Step and a host operation keep of the state, which instruction writes which
part of it, and the instructions whose effect is on SP, RAMPZ and the I/O addresses. -/

namespace Sys2Proof.Machine

/-! ## Invariants of the Step, as instances of `Closed` -/

/-- The pc's range and the two canonical forms, by name. -/
theorem wf_iff (s : State) :
    s.wf = true ↔ s.pcInRange = true ∧ Memory.wf s.data = true ∧ Program.wf s.prog = true := by
  simp only [State.wf, Bool.and_eq_true, and_assoc]

/-- Every update of an instruction keeps a well-formed state so. -/
theorem closed_wf : Closed .all (fun s => s.wf = true) (fun s => s.wf = true) where
  setReg _ _ _ _ h := h
  setRampz _ _ _ h := h
  setSreg _ _ _ h := h
  setPc s v h := by
    obtain ⟨-, hdata, hprog⟩ := (wf_iff s).mp h
    exact (wf_iff _).mpr ⟨pcInRange_setPc s v, hdata, hprog⟩
  setSp _ _ _ h := h
  called _ _ h := h
  wrote s a _ b h := by
    obtain ⟨hpc, hdata, hprog⟩ := (wf_iff s).mp h
    exact (wf_iff _).mpr ⟨hpc, Memory.wf_write s.data b a.isLt hdata, hprog⟩
  drawn _ _ h := h
  oracle s x _ h := by
    obtain ⟨hpc, -, -⟩ := (wf_iff s).mp h
    exact (wf_iff _).mpr ⟨hpc, Memory.wf_ofBytes _, Program.wf_ofWords _⟩
  finish _ _ _ _ h := h
  failed _ f h := by cases f <;> exact h

/-- Settles O8: well-formedness is closed under every update a Step makes. -/
theorem stepKeepsTheStateWellFormed : Obligations.StepKeepsTheStateWellFormed := by
  intro s t hwf h
  cases hs : s.asleep with
  | true =>
    rw [step_asleep hs] at h
    cases h
    exact hwf
  | false => exact closed_wf.keeps_step hs hwf (fun _ hu => hu) t h

/-- Settles O10: every host operation is a register write, a pc write, a byte kept or a program word listed or removed, or
it writes nothing that well-formedness speaks of. -/
theorem hostOperationsKeepTheStateWellFormed : Obligations.HostOperationsKeepTheStateWellFormed := by
  intro o s h
  obtain ⟨hpc, hdata, hprog⟩ := (wf_iff s).mp h
  cases o with
  | writePc v => exact closed_wf.setPc s _ h
  | setData a v => exact (wf_iff _).mpr ⟨hpc, Memory.wf_write s.data v a.isLt hdata, hprog⟩
  | setProgram wa w =>
    cases w with
    | some w => exact (wf_iff _).mpr ⟨hpc, hdata, Program.wf_setWord s.prog w wa.isLt hprog⟩
    | none => exact (wf_iff _).mpr ⟨hpc, hdata, Program.wf_removeWord s.prog wa.toNat hprog⟩
  | reset =>
    have hzero : s.hostReset.pcInRange = true := by
      cases hw : s.params.pcWidth <;> simp [State.pcInRange, State.hostReset, maskPc, hw]
    exact (wf_iff _).mpr ⟨hzero, hdata, hprog⟩
  | _ => exact h

/-- Settles O9: State.reset is a closed term, so each value is read off it. -/
theorem resetStateHoldsTheGivenValues : Obligations.ResetStateHoldsTheGivenValues := by
  refine ⟨rfl, rfl, ?_, rfl, rfl, rfl, ?_⟩ <;> decide

/-- What the end of a Step that begins awake at the count `c0` says of the cycle counter (R53, R710, R721). -/
def CyclesAccounted (c0 : BitVec 64) (t : State) : Prop :=
  (∃ n, t.result = .ok n ∧ t.cycles = c0 + BitVec.ofNat 64 n ∧ 1 ≤ n ∧ n ≤ 5) ∨
  (∃ f, t.result = .err f ∧ ((∃ p, f = .breakInterrupt p ∧ t.cycles = c0 + 1#64) ∨ c0 ≤ t.cycles))

/-- Either end of a failed step accounts for its cycles. -/
theorem cyclesAccounted_failed (s : State) (f : Fault) : CyclesAccounted s.cycles (s.failed f) := by
  have hopen := le_cyclesAfterFailure s.cycles s.draws
  cases f with
  | breakInterrupt p => exact .inr ⟨_, rfl, .inl ⟨p, rfl, rfl⟩⟩
  | _ => exact .inr ⟨_, rfl, .inr hopen⟩

/-- No update of an instruction touches the cycle counter before the end of the step, which accounts for it. -/
theorem closed_cycles (c0 : BitVec 64) : Closed .all (fun s => s.cycles = c0) (CyclesAccounted c0) where
  setReg _ _ _ _ h := h
  setRampz _ _ _ h := h
  setSreg _ _ _ h := h
  setPc _ _ h := h
  setSp _ _ _ h := h
  called _ _ h := h
  wrote _ _ _ _ h := h
  drawn _ _ h := h
  oracle _ _ _ h := h
  finish _ n h1 h5 h := .inl ⟨n, rfl, congrArg (· + BitVec.ofNat 64 n) h, h1, h5⟩
  failed s f h := h ▸ cyclesAccounted_failed s f

/-- Settles O13: asleep, the Step answers Ok(0); awake, both ends of it account for its cycles. -/
theorem stepAccountsForItsCycles : Obligations.StepAccountsForItsCycles := by
  intro s t h
  cases hs : s.asleep with
  | true =>
    rw [step_asleep hs] at h
    cases h
    exact .inl ⟨0, rfl, (BitVec.add_zero _).symm, by decide, by decide⟩
  | false =>
    have hend := (closed_cycles s.cycles).keeps_step hs rfl (fun _ hu => hu) t h
    rcases hend with ⟨n, hresult, hcycles, hpos, hle⟩ | ⟨f, hresult, hcycles⟩
    · exact .inl ⟨n, hresult, hcycles, hle, fun e => by omega, nofun⟩
    · exact .inr ⟨f, hresult, rfl, hcycles⟩

/-! ## Which instruction writes which part of the state -/

/-- From `s` to `t` nothing is written of the registers, the flags, SP and RAMPZ but what the footprint holds. -/
def WritesWithin (A : Footprint) (s t : State) : Prop :=
  (∀ j, ¬A.reg j → t.reg j = s.reg j) ∧ (∀ k, ¬A.flag k → t.sreg.bit k = s.sreg.bit k) ∧
  (¬A.sp → t.sp = s.sp) ∧ (¬A.rampz → t.rampz = s.rampz)

/-- No update of an instruction writes outside its footprint. -/
theorem closed_writesWithin (A : Footprint) (s : State) : Closed A (WritesWithin A s) (WritesWithin A s) where
  setReg u i v hi := fun ⟨hreg, hrest⟩ =>
    ⟨fun j hj => (u.reg_setReg_of_ne (fun (e : j = i) => hj (e ▸ hi)) v).trans (hreg j hj), hrest⟩
  setRampz _ _ hz := fun ⟨hreg, hflag, hsp, _⟩ => ⟨hreg, hflag, hsp, fun hn => absurd hz hn⟩
  setSreg _ _ hf := fun ⟨hreg, hflag, hrest⟩ => ⟨hreg, fun k hk => (hf k hk).trans (hflag k hk), hrest⟩
  setPc _ _ h := h
  setSp _ _ hsp := fun ⟨hreg, hflag, _, hrampz⟩ => ⟨hreg, hflag, fun hn => absurd hsp hn, hrampz⟩
  called _ _ h := h
  wrote _ _ _ _ h := h
  drawn _ _ h := h
  oracle _ _ _ h := h
  finish _ _ _ _ h := h
  failed _ f h := by cases f <;> exact h

/-- An instruction writes nothing outside its footprint. -/
theorem exec_writesWithin {i : Instr} {s t : State} (h : exec i s = .next t) : WritesWithin (footprint i) s t := by
  have hrefl : WritesWithin (footprint i) s s := ⟨fun _ _ => rfl, fun _ _ => rfl, fun _ => rfl, fun _ => rfl⟩
  exact (closed_writesWithin (footprint i) s).keeps_exec i hrefl (fun _ => hrefl) t h

/-- Settles O15: the flags of an instruction's footprint are those R43 lists it for. -/
theorem flagsChangeOnlyByTheirWriters : Obligations.FlagsChangeOnlyByTheirWriters := by
  intro i s t k h hk
  obtain ⟨-, hflag, -, -⟩ := exec_writesWithin h
  exact hflag k (Bool.eq_false_iff.mp hk)

/-- Settles O16: the registers of an instruction's footprint are those R31 gives it. -/
theorem registersChangeOnlyByTheirWriters : Obligations.RegistersChangeOnlyByTheirWriters := by
  intro i s t j h hj
  obtain ⟨hreg, -, -, -⟩ := exec_writesWithin h
  exact hreg j (Bool.eq_false_iff.mp hj)

/-- The sleep bit is in no footprint: no update but SLEEP's own writes it. -/
theorem closed_asleepKept (A : Footprint) (b : Bool) : Closed A (fun s => s.asleep = b) (fun s => s.asleep = b) where
  setReg _ _ _ _ h := h
  setRampz _ _ _ h := h
  setSreg _ _ _ h := h
  setPc _ _ h := h
  setSp _ _ _ h := h
  called _ _ h := h
  wrote _ _ _ _ h := h
  drawn _ _ h := h
  oracle _ _ _ h := h
  finish _ _ _ _ h := h
  failed _ f h := by cases f <;> exact h

/-- An instruction other than SLEEP leaves the sleep bit (R54). -/
theorem exec_asleep {i : Instr} {s t : State} (h : exec i s = .next t) (hi : i ≠ .sleep) : t.asleep = s.asleep :=
  (closed_asleepKept _ _).keeps_exec i rfl (fun e => absurd e hi) t h

/-- Settles O17: SP and RAMPZ are in the footprints of their writers only. -/
theorem spRampzAndSleepHaveFewWriters : Obligations.SpRampzAndSleepHaveFewWriters := by
  intro i s t h
  obtain ⟨-, -, hsp, hrampz⟩ := exec_writesWithin h
  exact ⟨fun hi => hsp (Bool.eq_false_iff.mp hi), fun hi => hrampz fun ⟨d, hd⟩ => hi d hd, exec_asleep h⟩

/-! ## S after arithmetic -/

/-- S is N xor V (R42). -/
def SignConsistent (f : Sreg) : Prop := f.s = xor f.n f.v

/-- Every flag computation that ends in `NZS` leaves S the xor of the N and V it writes (R200). -/
theorem signConsistent_nzs (res : Byte) (v : Bool) (f : Sreg) : SignConsistent (nzs res v f) := rfl

/-- ADIW's flags write S with N and V (R227). -/
theorem signConsistent_adiwFlags (b : Bool) (res : Word) (f : Sreg) : SignConsistent (adiwFlags b res f) := rfl

/-- SBIW's flags write S with N and V (R228). -/
theorem signConsistent_sbiwFlags (b : Bool) (res : Word) (f : Sreg) : SignConsistent (sbiwFlags b res f) := rfl

/-- `SbcZ` after the subtraction writes Z alone (R204). -/
theorem signConsistent_sbcFlags (sticky : Bool) (rd rr res : Byte) (f : Sreg) :
    SignConsistent (sbcFlags sticky rd rr res f) := rfl

/-- COM adds a write of C alone (R222). -/
theorem signConsistent_comFlags (res : Byte) (f : Sreg) : SignConsistent (comFlags res f) := rfl

/-- The shifts add a write of C alone (R223..R225). -/
theorem signConsistent_shiftFlags (rd res : Byte) (f : Sreg) : SignConsistent (shiftFlags rd res f) := rfl

/-- A successful end that writes SREG leaves the flags written, whatever it does to the registers. -/
theorem keeps_finish_signConsistent {f : Sreg} (hf : SignConsistent f) (n : Nat) (s : State) :
    Keeps (fun t => SignConsistent t.sreg) (finish n (s.setSreg f)) := keeps_next hf

/-- Every instruction that updates N or V leaves S their xor. -/
theorem exec_signConsistent (i : Instr) (s : State) (h : updatesNV i = true) :
    Keeps (fun t => SignConsistent t.sreg) (exec i s) := by
  cases i
  case add | adc | sub | subi | neg | inc | dec | and | andi | or | ori | eor | cp | cpi =>
    exact keeps_finish_signConsistent (signConsistent_nzs _ _ _) 1 _
  case sbc | sbci | cpc => exact keeps_finish_signConsistent (signConsistent_sbcFlags _ _ _ _ _) 1 _
  case com => exact keeps_finish_signConsistent (signConsistent_comFlags _ _) 1 _
  case lsr | asr | ror => exact keeps_finish_signConsistent (signConsistent_shiftFlags _ _ _) 1 _
  case adiw => exact keeps_finish_signConsistent (signConsistent_adiwFlags _ _ _) 2 _
  case sbiw => exact keeps_finish_signConsistent (signConsistent_sbiwFlags _ _ _) 2 _
  all_goals exact absurd h Bool.false_ne_true

/-- An instruction other than BSET and BCLR that does not update N or V writes none of the flags N, V and S (R42, R43). -/
theorem not_writesFlag_of_not_updatesNV {i : Instr} (h : updatesNV i = false) (hset : ∀ b, i ≠ .bset b)
    (hclr : ∀ b, i ≠ .bclr b) : writesFlag i 2 = false ∧ writesFlag i 3 = false ∧ writesFlag i 4 = false := by
  cases i
  case bset b => exact absurd rfl (hset b)
  case bclr b => exact absurd rfl (hclr b)
  case add | adc | sub | subi | sbc | sbci | cp | cpc | cpi | neg | inc | dec | and | andi | or | ori | eor | com | lsr |
      asr | ror | adiw | sbiw => exact absurd h.symm Bool.false_ne_true
  all_goals exact ⟨rfl, rfl, rfl⟩

/-- Settles O18: the flags an updater of N or V writes are consistent, and the others write none of the three. -/
theorem signFlagFollowsArithmetic : Obligations.SignFlagFollowsArithmetic := by
  intro i s t h
  refine ⟨fun hi => exec_signConsistent i s hi t h, fun hi hset hclr => ?_⟩
  obtain ⟨hn, hv, hs⟩ := not_writesFlag_of_not_updatesNV hi hset hclr
  exact ⟨flagsChangeOnlyByTheirWriters i s t 2 h hn, flagsChangeOnlyByTheirWriters i s t 3 h hv,
    flagsChangeOnlyByTheirWriters i s t 4 h hs⟩

/-! ## Sleep -/

/-- The one row of the table that builds SLEEP has all its bits fixed. -/
theorem row_of_build_sleep : ∀ row ∈ opcodeTable, ∀ op op2 : Word, row.build op op2 = .sleep →
    row.mask = 0xFFFF#16 ∧ row.pattern = 0x9588#16 := by
  simp only [opcodeTable, List.forall_mem_append, rows1, rows2, rows3, rows4, rows5, rows6, rows7, List.forall_mem_cons,
    List.not_mem_nil, reduceCtorEq, false_imp_iff, implies_true, true_and, and_self]

/-- No word but 0x9588 decodes to SLEEP (R510). -/
theorem eq_of_decode_sleep {op op2 : Word} (h : decode op op2 = some .sleep) : op = 0x9588#16 := by
  obtain ⟨row, hfind, hbuild⟩ := Option.map_eq_some_iff.mp h
  obtain ⟨hmask, hpattern⟩ := row_of_build_sleep row (List.mem_of_find?_eq_some hfind) op op2 hbuild
  have hadmits := Row.admits_eq.mp (List.find?_some (p := fun row : Row => row.admits op) hfind)
  rw [hmask, hpattern] at hadmits
  exact (BitVec.and_allOnes (x := op)).symm.trans hadmits

/-- `keeps_fetchInstr`, where what follows the fetch may use that its first word is the one the backend answers. -/
theorem Closed.keeps_fetchInstr_answered {A : Footprint} {P Q : State → Prop} (h : Closed A P Q) {s : State}
    {k : Word → Word → State → Outcome} (hs : P s)
    (hk : ∀ op, AnswersWord s (fetchAt s) op → ∀ op2 u, P u → Keeps Q (k op op2 u)) : Keeps Q (fetchInstr s k) := by
  have hread : P (readProgramMemory (fetchAt s) s).2 := h.readProg _ hs
  cases hw : (readProgramMemory (fetchAt s) s).1 with
  | none =>
    rw [fetchInstr, fetchWord_none hw]
    exact h.keeps_raise _ hread
  | some op =>
    have hfetched : P (fetched s) := h.setPc _ _ hread
    cases hl : isLong op with
    | false =>
      rw [fetchInstr_short hw hl]
      exact hk op hw _ _ hfetched
    | true =>
      rw [fetchInstr_long hw hl]
      exact h.keeps_fetchWord hfetched (hk op hw)

/-- The backend answers the first fetch of a Step as it would have answered before the Step began. -/
theorem answersWord_beginStep (s : State) (op : Word) :
    AnswersWord (beginStep s) (fetchAt (beginStep s)) op ↔ AnswersWord s (fetchAt s) op := by
  simp only [AnswersWord, readProgramMemory, beginStep, fetchAt]
  cases regionKind s.progRegions (s.pc.zeroExtend 32).toNat <;> rfl

/-- A Step of an awake core that fetches another word than SLEEP's ends awake. -/
theorem step_stays_awake {s : State} (hs : s.asleep = false) (hw : ¬AnswersWord s (fetchAt s) 0x9588#16) :
    Keeps (fun t => t.asleep = false) (step s) := by
  have hclosed := closed_asleepKept .all false
  rw [step_awake hs]
  refine hclosed.keeps_fetchInstr_answered hs fun op hop op2 u hu => ?_
  cases hd : decode op op2 with
  | none => exact hclosed.keeps_unknownWord op hu
  | some i =>
    have hi : i ≠ .sleep := by
      rintro rfl
      rw [answersWord_beginStep, eq_of_decode_sleep hd] at hop
      exact hw hop
    exact fun t ht => (exec_asleep ht hi).trans hu

/-- Settles O7: SLEEP's own effect, the Step that falls asleep, the Step asleep, and the host's operations. -/
theorem sleepIsEnteredBySleepAndLeftByReset : Obligations.SleepIsEnteredBySleepAndLeftByReset := by
  refine ⟨fun s => ⟨_, rfl, rfl⟩, fun s t h ht hs => ?_, fun s hs => step_asleep hs, fun o s ho => ?_, fun _ => rfl,
    fun _ => rfl, rfl⟩
  · by_contra hw
    exact Bool.false_ne_true ((step_stays_awake hs hw t h).symm.trans ht)
  · cases o with
    | reset => exact absurd rfl ho
    | setProgram wa w => cases w <;> rfl
    | _ => rfl

/-! ## SREG and the flags -/

/-- Bit k of SREG is flag k (R40, R41). -/
theorem getLsbD_toByte (f : Sreg) (k : BitNo) : f.toByte.getLsbD k.val = f.bit k := by
  -- The width as `toByte` builds it, so that the law of `++` applies at each of the seven joins.
  change BitVec.getLsbD (w := 1 + 1 + 1 + 1 + 1 + 1 + 1 + 1) f.toByte k.val = f.bit k
  simp only [Sreg.toByte, BitVec.getLsbD_append, BitVec.getLsbD_ofBool]
  fin_cases k <;> simp [Sreg.bit]

/-- Flag k of a byte written to SREG is its bit k (R41). -/
theorem bit_ofByte (b : Byte) (k : BitNo) : (Sreg.ofByte b).bit k = b.getLsbD k.val := by
  fin_cases k <;> rfl

/-- Flags that agree bit by bit are the same flags. -/
theorem sreg_ext_bit {f g : Sreg} (h : ∀ k, f.bit k = g.bit k) : f = g := by
  cases f; cases g
  simp only [Sreg.mk.injEq]
  exact ⟨h 0, h 1, h 2, h 3, h 4, h 5, h 6, h 7⟩

theorem toByte_ofByte (b : Byte) : (Sreg.ofByte b).toByte = b :=
  BitVec.eq_of_getLsbD_eq fun k hk => (getLsbD_toByte _ ⟨k, hk⟩).trans (bit_ofByte b ⟨k, hk⟩)

theorem ofByte_toByte (f : Sreg) : Sreg.ofByte f.toByte = f :=
  sreg_ext_bit fun k => (bit_ofByte _ k).trans (getLsbD_toByte f k)

/-- Settles O19, from what each of the two views says of one bit. -/
theorem sregByteAndFlagsAreOneStore : Obligations.SregByteAndFlagsAreOneStore :=
  ⟨toByte_ofByte, ofByte_toByte, getLsbD_toByte, fun _ => ⟨rfl, rfl, rfl, rfl, rfl, rfl, rfl, rfl⟩⟩

/-! ## Host writes -/

/-- The mask of R33 as the remainder a host write of the pc leaves (R61). -/
theorem maskPc_extract_toNat (w : PcWidth) (v : BitVec 32) :
    (maskPc w (v.extractLsb' 0 22)).toNat = v.toNat % (match w with | .pc16 => 65536 | .pc22 => 4194304) := by
  cases w with
  | pc16 =>
    rw [maskPc_pc16_toNat, BitVec.extractLsb'_toNat]
    simp
  | pc22 => simp [maskPc]

/-- The low byte of a pointer after a write of the pointer (R32). -/
theorem State.reg_setPtr_low (s : State) (p : Ptr) (w : Word) : (s.setPtr p w).reg p.low = loByte w := by
  have hne : p.low ≠ p.low + 1 := by cases p <;> decide
  simp only [State.setPtr, State.reg_setPair, hne, if_true, if_false]

/-- The high byte of a pointer after a write of the pointer (R32). -/
theorem State.reg_setPtr_high (s : State) (p : Ptr) (w : Word) : (s.setPtr p w).reg (p.low + 1) = hiByte w := by
  simp only [State.setPtr, State.reg_setPair, if_true]

/-- Settles O21: each write by the laws of its operation. -/
theorem hostWritesActAsInstructionWrites : Obligations.HostWritesActAsInstructionWrites := by
  intro s
  exact ⟨fun i v => ⟨_, rfl, rfl, s.reg_setReg_self i v, fun j hj => s.reg_setReg_of_ne hj v⟩,
    fun p v => ⟨_, rfl, rfl, s.reg_setPtr_low p v, s.reg_setPtr_high p v, fun j hj => s.reg_setPtr_of_not_byte hj v⟩,
    fun v => ⟨_, rfl, rfl, maskPc_extract_toNat _ v⟩, fun _ => rfl,
    fun b => ⟨_, rfl, rfl, toByte_ofByte b⟩,
    fun k b => ⟨_, rfl, rfl, bit_setBit_self s.sreg k b, fun j hj => bit_setBit_of_ne s.sreg hj b⟩,
    fun _ => rfl, fun _ => rfl, fun _ => rfl, fun _ => rfl, fun _ => rfl⟩
/-! ## The frames of the statements, from the two ends of a step -/

/-- Every word a row of the table admits decodes by that row (R123, R125). -/
theorem encodes_row (n : Nat) (hn : n < opcodeTable.length) :
    Encodes opcodeTable[n].pattern opcodeTable[n].mask opcodeTable[n].build := fun _ op2 h =>
  decode_of_admits (List.getElem_mem hn) (Row.admits_eq.mpr h) op2

theorem Ran.regs {n : Nat} {xs : List BusAccess} {u t : State} (h : Ran n xs u t) : t.regs = u.regs := by
  rw [h.1]; rfl

theorem Ran.rampz {n : Nat} {xs : List BusAccess} {u t : State} (h : Ran n xs u t) : t.rampz = u.rampz := by
  rw [h.1]; rfl

theorem FailedAfter.regs {f : Fault} {xs : List BusAccess} {u t : State} (h : FailedAfter f xs u t) :
    t.regs = u.regs := by
  rw [h.1]; rfl

theorem FailedAfter.rampz {f : Fault} {xs : List BusAccess} {u t : State} (h : FailedAfter f xs u t) :
    t.rampz = u.rampz := by
  rw [h.1]; rfl

/-- A run from `s` with other registers, in the statements' form: the registers named by the state it ends in. -/
theorem Ran.fromRegs {n : Nat} {xs : List BusAccess} {s u t : State} (h : Ran n xs u t)
    (hu : u = { s with regs := u.regs }) : Ran n xs { s with regs := t.regs } t := by
  rw [h.regs, ← hu]; exact h

/-- The same with another RAMPZ besides. -/
theorem Ran.fromRegsRampz {n : Nat} {xs : List BusAccess} {s u t : State} (h : Ran n xs u t)
    (hu : u = { s with regs := u.regs, rampz := u.rampz }) :
    Ran n xs { s with regs := t.regs, rampz := t.rampz } t := by
  rw [h.regs, h.rampz, ← hu]; exact h

/-- A failure from `s` with other registers, in the statements' form. -/
theorem FailedAfter.fromRegs {f : Fault} {xs : List BusAccess} {s u t : State} (h : FailedAfter f xs u t)
    (hu : u = { s with regs := u.regs }) : FailedAfter f xs { s with regs := t.regs } t := by
  rw [h.regs, ← hu]; exact h

/-- The same with another RAMPZ besides. -/
theorem FailedAfter.fromRegsRampz {f : Fault} {xs : List BusAccess} {s u t : State} (h : FailedAfter f xs u t)
    (hu : u = { s with regs := u.regs, rampz := u.rampz }) :
    FailedAfter f xs { s with regs := t.regs, rampz := t.rampz } t := by
  rw [h.regs, h.rampz, ← hu]; exact h

/-! ## Loads and stores -/

/-- A load that the backend answers: the byte in Rd. -/
theorem memRead_load {a : Word} {s : State} {v : Byte} (h : Answers s a v) (n : Nat) (d : Reg) :
    ∃ t, memRead a s (fun b u => finish n (u.setReg d b)) = .next t ∧ LoadFrame n a s t ∧ t.reg d = v ∧
      OthersKept d s t := by
  have hc := called_readDataMemory a s
  exact ⟨_, memRead_some h _, ((hc.setReg d v).finish n).fromRegs rfl, State.reg_setReg_self _ d v,
    fun j hj => (State.reg_setReg_of_ne _ hj v).trans (hc.reg j)⟩

/-- A load that the backend does not answer, whatever was to follow it. -/
theorem memRead_silent {a : Word} {s : State} (h : Silent s a) (k : Byte → State → Outcome) :
    ∃ t, memRead a s k = .next t ∧ LoadFailed a s t ∧ t.regs = s.regs := by
  have hf := (called_readDataMemory a s).failed (f := .addressUnreadable .data a.toNat) nofun
  exact ⟨_, memRead_none h k, hf.fromRegs rfl, hf.regs⟩

/-- Plain memory holds what was written to it (R92). -/
theorem read_writeDataMemory {a : Word} {s : State} (h : HoldsWrites s a) (v : Byte) :
    Memory.read (writeDataMemory a v s).2.data a.toNat = v := by
  rw [writeDataMemory_kept v h]
  exact Memory.read_write_self _ _ v

/-- A store that the backend rejects, whatever was to follow it. -/
theorem memWrite_rejected {a : Word} {v : Byte} {s : State} (h : Rejects s a v) (k : State → Outcome) :
    ∃ t, memWrite a v s k = .next t ∧ StoreFailed a v s t ∧ t.regs = s.regs := by
  have hf := (called_writeDataMemory a v s).failed (f := .addressUnwritable a.toNat v) nofun
  exact ⟨_, memWrite_false h k, hf.fromRegs rfl, hf.regs⟩

/-- An instruction that reads `a` into Rd and ends. -/
theorem loadsPlain_of_exec {n : Nat} {i : Instr} {d : Reg} {a : Word} {s : State}
    (h : exec i s = memRead a s fun b u => finish n (u.setReg d b)) : LoadsPlain n i d a s := by
  rw [LoadsPlain, h]
  exact ⟨fun v hv => memRead_load hv n d, fun hs => memRead_silent hs _⟩

/-- An instruction that writes Rr at `a` and ends. -/
theorem storesPlain_of_exec {n : Nat} {i : Instr} {r : Reg} {a : Word} {s : State}
    (h : exec i s = memWrite a (s.reg r) s fun u => finish n u) : StoresPlain n i r a s := by
  rw [StoresPlain, h]
  refine ⟨fun ht => ?_, fun hr => memWrite_rejected hr _⟩
  have hend := (called_writeDataMemory a (s.reg r) s).finish n
  exact ⟨_, memWrite_true ht _, ⟨hend.fromRegs rfl, fun hh => read_writeDataMemory hh _⟩, hend.regs⟩

/-- The data address of a 6-bit I/O address (R73). -/
theorem ioAddr6_toNat (a : BitVec 6) : (ioAddr6 a).toNat = 0x20 + a.toNat := by
  have ha := a.isLt
  simp only [ioAddr6, BitVec.truncate_eq_setWidth, BitVec.toNat_add, BitVec.toNat_setWidth, BitVec.toNat_ofNat]
  omega

/-- Settles O54: IN is a plain load and OUT a plain store of one cycle at the I/O address. -/
theorem inAndOutAccessDataAddresses : Obligations.InAndOutAccessDataAddresses := by
  refine ⟨encodes_row 86 (by decide), encodes_row 87 (by decide), fun d r a addr s haddr => ?_⟩
  obtain rfl : addr = ioAddr6 a := BitVec.eq_of_toNat_eq (haddr.trans (ioAddr6_toNat a).symm)
  exact ⟨loadsPlain_of_exec rfl, storesPlain_of_exec rfl⟩

/-! ## The stack -/

/-- PUSH, its byte taken: SP is one less, and the backend holds the byte where it is plain memory (R79, R434). -/
theorem pushByte_taken {v : Byte} {s : State} (h : Takes s s.sp v) (n : Nat) :
    ∃ t, pushByte v s (finish n) = .next t ∧ StoreFrame n s.sp v { s with sp := s.sp - 1#16 } t ∧ t.regs = s.regs := by
  have hc := called_writeDataMemory s.sp v s
  have hend := (hc.setSp (s.sp - 1#16)).finish n
  rw [pushByte, memWrite_true h, hc.sp]
  exact ⟨_, rfl, ⟨hend.fromRegs rfl, fun hh => read_writeDataMemory (s := s) hh v⟩, hend.regs⟩

/-- Settles O52: PUSH offers the byte and then moves SP; POP moves SP and is a load from there. -/
theorem pushAndPopMoveSp : Obligations.PushAndPopMoveSp := by
  refine ⟨encodes_row 52 (by decide), encodes_row 39 (by decide), fun r s => ⟨fun h => pushByte_taken h 2,
    fun h => memWrite_rejected h _, fun v h => ?_, fun h => ?_⟩⟩
  · have hpop : Answers (s.setSp (s.sp + 1#16)) (s.sp + 1#16) v := by
      rw [Answers, readDataMemory_setSp]; exact h
    exact memRead_load hpop 2 r
  · have hpop : Silent (s.setSp (s.sp + 1#16)) (s.sp + 1#16) := by
      rw [Silent, readDataMemory_setSp]; exact h
    exact memRead_silent hpop _

/-! ## Program-memory loads -/

/-- Bit 0 of a byte address selects the byte of the word (R83). -/
theorem byteOfWord_eq_programByte {n : Nat} (a : BitVec n) (w : Word) :
    byteOfWord (a.getLsbD 0) w = programByte a.toNat w := by
  have hbit : a.getLsbD 0 = decide (a.toNat % 2 = 1) := Nat.testBit_zero a.toNat
  rw [hbit, programByte]
  by_cases h : a.toNat % 2 = 1 <;> simp only [h, decide_true, decide_false, if_true, if_false] <;> rfl

/-- A program-memory load that the backend answers: a byte of the word in Rd. -/
theorem progRead_load {wa : BitVec 32} {s : State} {w : Word} (h : AnswersWord s wa w) {a : Nat} (ha : wa.toNat = a / 2)
    (d : Reg) (f : Word → Byte) :
    ∃ t, progRead wa s (fun x u => finish 3 (u.setReg d (f x))) = .next t ∧ ProgLoadFrame a s t ∧ t.rampz = s.rampz ∧
      t.reg d = f w ∧ OthersKept d s t := by
  have hc := called_readProgramMemory wa s
  have hend := (hc.setReg d (f w)).finish 3
  rw [ha] at hend
  exact ⟨_, progRead_some h _, hend.fromRegsRampz rfl, hc.rampz, State.reg_setReg_self _ d (f w),
    fun j hj => (State.reg_setReg_of_ne _ hj (f w)).trans (hc.reg j)⟩

/-- A program-memory load that the backend does not answer, whatever was to follow it. -/
theorem progRead_silent {wa : BitVec 32} {s : State} (h : SilentWord s wa) {a : Nat} (ha : wa.toNat = a / 2)
    (k : Word → State → Outcome) :
    ∃ t, progRead wa s k = .next t ∧ ProgLoadFailed a s t ∧ t.rampz = s.rampz ∧ t.regs = s.regs := by
  have hf := (called_readProgramMemory wa s).failed (f := .addressUnreadable .program wa.toNat) nofun
  have hend := progRead_none h k
  rw [ha] at hf hend
  exact ⟨_, hend, hf.fromRegsRampz rfl, hf.rampz, hf.regs⟩

/-- The word of a 24-bit byte address (R427). -/
theorem elpmWordAddr_toNat (a : BitVec 24) : (elpmWordAddr a).toNat = a.toNat / 2 := by
  have ha := a.isLt
  simp only [elpmWordAddr, BitVec.truncate_eq_setWidth, BitVec.toNat_setWidth, BitVec.toNat_ushiftRight,
    Nat.shiftRight_eq_div_pow]
  omega

/-- RAMPZ:Z as a number (R51). -/
theorem State.rampzZ_toNat (s : State) : s.rampzZ.toNat = s.rampz.toNat * 65536 + (s.ptr .z).toNat := by
  rw [State.rampzZ, BitVec.toNat_append, ← Nat.shiftLeft_add_eq_or_of_lt (s.ptr .z).isLt, Nat.shiftLeft_eq]

/-- RAMPZ:Z reads back what was written to it. -/
theorem State.rampzZ_setRampzZ (s : State) (a : BitVec 24) : (s.setRampzZ a).rampzZ = a := by
  apply BitVec.eq_of_toNat_eq
  have hptr : (s.setRampzZ a).ptr .z = a.extractLsb' 0 16 := s.ptr_setPtr .z _
  have hrampz : (s.setRampzZ a).rampz = a.extractLsb' 16 8 := rfl
  have ha := a.isLt
  rw [State.rampzZ_toNat, hptr, hrampz]
  simp only [BitVec.extractLsb'_toNat, Nat.shiftRight_eq_div_pow]
  omega

/-- The port answers a program read alike before and after a write of RAMPZ:Z. -/
theorem readProgramMemory_setRampzZ_answer (wa : BitVec 32) (s : State) (a : BitVec 24) :
    (readProgramMemory wa (s.setRampzZ a)).1 = (readProgramMemory wa s).1 := by
  have h : readProgramMemory wa (s.setRampzZ a) = ((readProgramMemory wa s).1, _) :=
    readProgramMemory_core wa s (s.setRampzZ a).regs s.pc s.sp (s.setRampzZ a).rampz
  rw [h]

/-- A pointer reads as before where both its bytes do. -/
theorem State.ptr_congr {s t : State} (p : Ptr) (h : ∀ j, p.isByte j = true → t.reg j = s.reg j) : t.ptr p = s.ptr p := by
  simp only [State.ptr, State.pair]
  rw [h _ (by simp [Ptr.isByte]), h _ (by simp [Ptr.isByte])]

/-- A failure before any access (R620, R721). -/
theorem failedFrom_failed (s : State) {f : Fault} (hf : ∀ p, f ≠ .breakInterrupt p) : FailedFrom f s (s.failed f) := by
  cases f
  case breakInterrupt p => exact absurd rfl (hf p)
  all_goals exact ⟨rfl, le_cyclesAfterFailure s.cycles s.draws⟩

theorem needs22_pc16 {s : State} (h : s.params.pcWidth = .pc16) (i : Instr) (k : State → Outcome) :
    needs22 i s k = raise (.invalidOperation s.pc0 (opWord i)) s := by
  rw [needs22, h]

theorem needs22_pc22 {s : State} (h : s.params.pcWidth = .pc22) (i : Instr) (k : State → Outcome) :
    needs22 i s k = k s := by
  rw [needs22, h]

/-- With a 16-bit PC the step fails before any access (R603). -/
theorem needs22_fails {s : State} (h : s.params.pcWidth = .pc16) (i : Instr) (k : State → Outcome) :
    ∃ t, needs22 i s k = .next t ∧ FailedFrom (.invalidOperation s.pc0 (opWord i)) s t :=
  ⟨_, needs22_pc16 h i k, failedFrom_failed s nofun⟩

/-- The end of ELPM where the word exists (R83, R427). -/
theorem elpmFrom_answered {b : BitVec 24} {s : State} {w : Word} (h : AnswersWord s (elpmWordAddr b) w) (d : Reg) :
    ∃ t, elpmFrom d b s = .next t ∧ ProgLoadFrame b.toNat s t ∧ t.rampz = s.rampz ∧ t.reg d = programByte b.toNat w ∧
      OthersKept d s t := by
  have hload := progRead_load h (elpmWordAddr_toNat b) d (byteOfWord (b.getLsbD 0))
  rwa [byteOfWord_eq_programByte] at hload

/-- The end of ELPM where no such word exists. -/
theorem elpmFrom_silent {b : BitVec 24} {s : State} (h : SilentWord s (elpmWordAddr b)) (d : Reg) :
    ∃ t, elpmFrom d b s = .next t ∧ ProgLoadFailed b.toNat s t ∧ t.rampz = s.rampz ∧ t.regs = s.regs :=
  progRead_silent h (elpmWordAddr_toNat b) _

/-! The three forms over their end (R427..R429). -/

theorem exec_elpm (s : State) : exec .elpm s = needs22 .elpm s fun u => elpmFrom 0 u.rampzZ u := rfl

theorem exec_elpmZ (d : Reg) (s : State) : exec (.elpmZ d) s = needs22 (.elpmZ d) s fun u => elpmFrom d u.rampzZ u :=
  rfl

/-- `ELPM Rd, Z+` with Rd no byte of Z: the pointer is stepped before the read. -/
theorem exec_elpmZInc {d : Reg} (hd : Ptr.z.isByte d = false) (s : State) : exec (.elpmZInc d) s =
    needs22 (.elpmZInc d) s fun u => elpmFrom d u.rampzZ (u.setRampzZ (u.rampzZ + 1#24)) := by
  show execElpmZInc d s = _
  rw [execElpmZInc, unlessOwn_false hd]

/-- Where RAMPZ and both bytes of Z are those of `s` with RAMPZ:Z stepped, the 24-bit pointer is one more (R429). -/
theorem rampzZ_stepped {s t : State} (hrampz : t.rampz = (s.setRampzZ (s.rampzZ + 1#24)).rampz)
    (hz : ∀ j, Ptr.z.isByte j = true → t.reg j = (s.setRampzZ (s.rampzZ + 1#24)).reg j) :
    t.rampz.toNat * 65536 + (t.ptr .z).toNat = (s.rampzZ.toNat + 1) % 16777216 := by
  rw [hrampz, State.ptr_congr .z hz, ← State.rampzZ_toNat, State.rampzZ_setRampzZ, BitVec.toNat_add]
  rfl

/-- `ELPM Rd, Z+` where the word exists (R429). -/
theorem exec_elpmZInc_answered {s : State} {d : Reg} {w : Word} (h22 : s.params.pcWidth = .pc22)
    (hd : Ptr.z.isByte d = false) (h : AnswersWord s (elpmWordAddr s.rampzZ) w) :
    ∃ t, exec (.elpmZInc d) s = .next t ∧ ProgLoadFrame s.rampzZ.toNat s t ∧
      t.rampz.toNat * 65536 + (t.ptr .z).toNat = (s.rampzZ.toNat + 1) % 16777216 ∧
      t.reg d = programByte s.rampzZ.toNat w ∧ ∀ j, j ≠ d → Ptr.z.isByte j = false → t.reg j = s.reg j := by
  have hstepped : AnswersWord (s.setRampzZ (s.rampzZ + 1#24)) (elpmWordAddr s.rampzZ) w := by
    rw [AnswersWord, readProgramMemory_setRampzZ_answer]; exact h
  obtain ⟨t, hend, hframe, hrampz, hdest, hothers⟩ := elpmFrom_answered hstepped d
  have hz : ∀ j, Ptr.z.isByte j = true → t.reg j = (s.setRampzZ (s.rampzZ + 1#24)).reg j := fun j hj =>
    hothers j fun e => Bool.false_ne_true (hd.symm.trans (e ▸ hj))
  rw [exec_elpmZInc hd, needs22_pc22 h22]
  exact ⟨t, hend, hframe, rampzZ_stepped hrampz hz, hdest,
    fun j hj hzj => (hothers j hj).trans (s.reg_setPtr_of_not_byte hzj _)⟩

/-- `ELPM Rd, Z+` where no such word exists: the pointer is stepped all the same (R429). -/
theorem exec_elpmZInc_silent {s : State} {d : Reg} (h22 : s.params.pcWidth = .pc22) (hd : Ptr.z.isByte d = false)
    (h : SilentWord s (elpmWordAddr s.rampzZ)) :
    ∃ t, exec (.elpmZInc d) s = .next t ∧ ProgLoadFailed s.rampzZ.toNat s t ∧
      t.rampz.toNat * 65536 + (t.ptr .z).toNat = (s.rampzZ.toNat + 1) % 16777216 ∧ OutsidePtrKept .z s t := by
  have hstepped : SilentWord (s.setRampzZ (s.rampzZ + 1#24)) (elpmWordAddr s.rampzZ) := by
    rw [SilentWord, readProgramMemory_setRampzZ_answer]; exact h
  obtain ⟨t, hend, hframe, hrampz, hregs⟩ := elpmFrom_silent hstepped d
  have hreg := State.reg_eq_of_regs_eq hregs
  rw [exec_elpmZInc hd, needs22_pc22 h22]
  exact ⟨t, hend, hframe, rampzZ_stepped hrampz fun j _ => hreg j,
    fun j hj => (hreg j).trans (s.reg_setPtr_of_not_byte hj _)⟩

/-- With a 16-bit PC no form of ELPM makes an access (R603). -/
theorem exec_elpm_pc16 {s : State} {d : Reg} {i : Instr} (h16 : s.params.pcWidth = .pc16)
    (hi : i = .elpm ∨ i = .elpmZ d ∨ (i = .elpmZInc d ∧ Ptr.z.isByte d = false)) :
    ∃ t, exec i s = .next t ∧ FailedFrom (.invalidOperation s.pc0 (opWord i)) s t := by
  rcases hi with rfl | rfl | ⟨rfl, hd⟩
  · rw [exec_elpm]
    exact needs22_fails h16 .elpm _
  · rw [exec_elpmZ]
    exact needs22_fails h16 (.elpmZ d) _
  · rw [exec_elpmZInc hd]
    exact needs22_fails h16 (.elpmZInc d) _

/-- Settles O50: each form with each width of the PC and each answer to its read. -/
theorem elpmLoadsThroughRampzAndZ : Obligations.ElpmLoadsThroughRampzAndZ := by
  refine ⟨encodes_row 72 (by decide), encodes_row 32 (by decide), encodes_row 33 (by decide), fun d s a wa ha hwa => ?_⟩
  obtain rfl : a = s.rampzZ.toNat := ha.trans s.rampzZ_toNat.symm
  obtain rfl : wa = elpmWordAddr s.rampzZ := BitVec.eq_of_toNat_eq (hwa.trans (elpmWordAddr_toNat _).symm)
  refine ⟨exec_own (.elpmZInc d) s, fun h16 i hi => exec_elpm_pc16 h16 hi, fun h22 w hw => ⟨?_, ?_, ?_⟩,
    fun h22 hw => ⟨?_, ?_⟩⟩
  · rw [exec_elpm, needs22_pc22 h22]
    exact elpmFrom_answered hw 0
  · rw [exec_elpmZ, needs22_pc22 h22]
    exact elpmFrom_answered hw d
  · exact fun hd => exec_elpmZInc_answered h22 hd hw
  · rintro i (rfl | rfl)
    · rw [exec_elpm, needs22_pc22 h22]
      exact elpmFrom_silent hw 0
    · rw [exec_elpmZ, needs22_pc22 h22]
      exact elpmFrom_silent hw d
  · exact fun hd => exec_elpmZInc_silent h22 hd hw

end Sys2Proof.Machine
end

section
/-! PROOFS of the family of 20_memory.md: plain memory, the loads and stores, the read-modify-write instructions, the skips,
and the instructions that push and pop. -/

namespace Sys2Proof.Machine

/-! ## Plain memory -/

/-- A write of plain memory leaves the map of the data space. -/
theorem regions_writeDataMemory_kept {a : Word} {s : State} (h : HoldsWrites s a) (v : Byte) :
    (writeDataMemory a v s).2.regions = s.regions := by
  rw [writeDataMemory_kept v h]
  rfl

/-- Plain memory takes every write. -/
theorem takes_of_ram {a : Word} {s : State} (h : regionKind s.regions a.toNat = .ram) (v : Byte) : Takes s a v := by
  rw [Takes, writeDataMemory_kept v (.inl h)]

/-- Plain memory answers a read with the byte it holds, and with no other. -/
theorem answers_iff_of_ram {a : Word} {s : State} (h : regionKind s.regions a.toNat = .ram) (v : Byte) :
    Answers s a v ↔ Memory.read s.data a.toNat = v := by
  rw [Answers, readDataMemory_held (.inl h), Option.some_inj]

/-- Settles O23: the byte written is held, and a write leaves the bytes of other addresses. -/
theorem plainMemoryReadsTheLastWrite : Obligations.PlainMemoryReadsTheLastWrite := by
  intro s a b v ha hb
  have hregions := regions_writeDataMemory_kept (.inl ha) v
  have ha' : regionKind (writeDataMemory a v s).2.regions a.toNat = .ram := hregions ▸ ha
  have hb' : regionKind (writeDataMemory a v s).2.regions b.toNat = .ram := hregions ▸ hb
  refine ⟨takes_of_ram ha v, (answers_iff_of_ram ha' v).mpr (read_writeDataMemory (.inl ha) v), fun hne w hw => ?_⟩
  have hheld := (answers_iff_of_ram hb w).mp hw
  have hkept : Memory.read (writeDataMemory a v s).2.data b.toNat = Memory.read s.data b.toNat := by
    rw [writeDataMemory_kept v (.inl ha)]
    exact Memory.read_write_of_ne _ (fun e => hne (BitVec.eq_of_toNat_eq e)) v
  exact (answers_iff_of_ram hb' w).mpr (hkept.trans hheld)

/-! ## Loads and stores through an unchanged pointer -/

/-- Settles O44: each form is a plain load of two cycles. -/
theorem plainLoadsReadOneByte : Obligations.PlainLoadsReadOneByte :=
  ⟨encodes_row 36 (by decide), encodes_row 24 (by decide), encodes_row 23 (by decide), encodes_row 27 (by decide),
    fun _ _ _ _ => ⟨loadsPlain_of_exec rfl, loadsPlain_of_exec rfl, loadsPlain_of_exec rfl, loadsPlain_of_exec rfl⟩⟩

/-- Settles O46: each form is a plain store of two cycles. -/
theorem plainStoresWriteOneByte : Obligations.PlainStoresWriteOneByte :=
  ⟨encodes_row 49 (by decide), encodes_row 26 (by decide), encodes_row 25 (by decide), encodes_row 40 (by decide),
    fun _ _ _ _ => ⟨storesPlain_of_exec rfl, storesPlain_of_exec rfl, storesPlain_of_exec rfl, storesPlain_of_exec rfl⟩⟩

/-! ## Auto-modify forms: the pointer is written, and then the access is made (R403) -/

/-- Where the registers outside `d` are those after a write of `w` to the pointer, and `d` is no byte of it, the pointer
holds `w`. -/
theorem ptr_stepped {s t : State} {p : Ptr} {d : Reg} {w : Word} (hd : p.isByte d = false)
    (h : OthersKept d (s.setPtr p w) t) : t.ptr p = w := by
  refine (State.ptr_congr p fun j hj => h j ?_).trans (s.ptr_setPtr p w)
  rintro rfl
  exact Bool.false_ne_true (hd.symm.trans hj)

/-- Where the registers are those after a write of `w` to the pointer, the pointer holds `w`, and the registers that are no
byte of it are as before. -/
theorem ptr_stepped_of_regs {s t : State} {p : Ptr} {w : Word} (h : t.regs = (s.setPtr p w).regs) :
    t.ptr p = w ∧ OutsidePtrKept p s t :=
  ⟨(State.ptr_congr p fun j _ => State.reg_eq_of_regs_eq h j).trans (s.ptr_setPtr p w),
    fun j hj => (State.reg_eq_of_regs_eq h j).trans (s.reg_setPtr_of_not_byte hj w)⟩

/-- An auto-modify load, over its access from the state with the pointer written. -/
theorem loadsAuto_of_exec {i : Instr} {p : Ptr} {d : Reg} {a w : Word} {s : State} (step : State → Word × State)
    (h : exec i s = unlessOwn i p d s fun u => loadFrom d (step u).1 (step u).2)
    (hs : step s = (a, s.setPtr p w)) : LoadsAuto i p d a w s := by
  refine ⟨fun hd => h.trans (unlessOwn_true hd s _), fun hd v hv => ?_, fun hd hsilent => ?_⟩
  · have hv' : Answers (s.setPtr p w) a v := by rw [Answers, readDataMemory_setPtr]; exact hv
    obtain ⟨t, hend, hframe, hdest, hothers⟩ := memRead_load hv' 2 d
    rw [h, unlessOwn_false hd, hs]
    exact ⟨t, hend, hframe, hdest, ptr_stepped hd hothers,
      fun j hj hp => (hothers j hj).trans (s.reg_setPtr_of_not_byte hp w)⟩
  · have hs' : Silent (s.setPtr p w) a := by rw [Silent, readDataMemory_setPtr]; exact hsilent
    obtain ⟨t, hend, hfail, hregs⟩ := memRead_silent hs' fun b u => finish 2 (u.setReg d b)
    rw [h, unlessOwn_false hd, hs]
    exact ⟨t, hend, hfail, ptr_stepped_of_regs hregs⟩

/-- Settles O45: each form is an auto-modify load. -/
theorem autoModifyLoadsWriteThePointerFirst : Obligations.AutoModifyLoadsWriteThePointerFirst :=
  ⟨encodes_row 37 (by decide), encodes_row 38 (by decide), encodes_row 34 (by decide), encodes_row 35 (by decide),
    encodes_row 28 (by decide), encodes_row 29 (by decide), fun _ _ =>
    ⟨loadsAuto_of_exec (postInc .x) rfl rfl, loadsAuto_of_exec (preDec .x) rfl rfl,
      loadsAuto_of_exec (postInc .y) rfl rfl, loadsAuto_of_exec (preDec .y) rfl rfl,
      loadsAuto_of_exec (postInc .z) rfl rfl, loadsAuto_of_exec (preDec .z) rfl rfl⟩⟩

/-- An auto-modify store, over its access from the state with the pointer written. -/
theorem storesAuto_of_exec {i : Instr} {p : Ptr} {r : Reg} {a w : Word} {s : State} (step : State → Word × State)
    (h : exec i s = unlessOwn i p r s fun u => storeTo (step u).1 r (step u).2)
    (hs : step s = (a, s.setPtr p w)) : StoresAuto i p r a w s := by
  refine ⟨fun hr => h.trans (unlessOwn_true hr s _), fun hr ht => ?_, fun hr hf => ?_⟩
  all_goals rw [h, unlessOwn_false hr, hs, storeTo, s.reg_setPtr_of_not_byte hr w]
  · have ht' : Takes (s.setPtr p w) a (s.reg r) := by rw [Takes, writeDataMemory_setPtr]; exact ht
    have hc := called_writeDataMemory a (s.reg r) (s.setPtr p w)
    exact ⟨_, memWrite_true ht' _, ⟨(hc.finish 2).fromRegs rfl, fun hh => read_writeDataMemory (s := s.setPtr p w) hh _⟩,
      ptr_stepped_of_regs hc.regs⟩
  · have hf' : Rejects (s.setPtr p w) a (s.reg r) := by rw [Rejects, writeDataMemory_setPtr]; exact hf
    obtain ⟨t, hend, hfail, hregs⟩ := memWrite_rejected hf' fun u => finish 2 u
    exact ⟨t, hend, hfail, ptr_stepped_of_regs hregs⟩

/-- Settles O47: each form is an auto-modify store. -/
theorem autoModifyStoresWriteThePointerFirst : Obligations.AutoModifyStoresWriteThePointerFirst :=
  ⟨encodes_row 50 (by decide), encodes_row 51 (by decide), encodes_row 47 (by decide), encodes_row 48 (by decide),
    encodes_row 41 (by decide), encodes_row 42 (by decide), fun _ _ =>
    ⟨storesAuto_of_exec (postInc .x) rfl rfl, storesAuto_of_exec (preDec .x) rfl rfl,
      storesAuto_of_exec (postInc .y) rfl rfl, storesAuto_of_exec (preDec .y) rfl rfl,
      storesAuto_of_exec (postInc .z) rfl rfl, storesAuto_of_exec (preDec .z) rfl rfl⟩⟩

/-! ## LPM -/

/-- The word of a 16-bit byte address (R424). -/
theorem lpmWordAddr_toNat (a : Word) : (lpmWordAddr a).toNat = a.toNat / 2 := by
  have ha := a.isLt
  simp only [lpmWordAddr, BitVec.truncate_eq_setWidth, BitVec.toNat_setWidth, BitVec.toNat_ushiftRight,
    Nat.shiftRight_eq_div_pow]
  omega

/-- The port answers a program read alike before and after a write of a pointer. -/
theorem readProgramMemory_setPtr_answer (wa : BitVec 32) (s : State) (p : Ptr) (w : Word) :
    (readProgramMemory wa (s.setPtr p w)).1 = (readProgramMemory wa s).1 :=
  (congrArg Prod.fst (readProgramMemory_core wa s (s.setPtr p w).regs s.pc s.sp s.rampz) :)

/-- The end of LPM where the word exists (R83, R424). -/
theorem lpmFrom_answered {b : Word} {s : State} {w : Word} (h : AnswersWord s (lpmWordAddr b) w) (d : Reg) :
    ∃ t, lpmFrom d b s = .next t ∧ ProgLoadFrame b.toNat s t ∧ t.rampz = s.rampz ∧ t.reg d = programByte b.toNat w ∧
      OthersKept d s t := by
  have hload := progRead_load h (lpmWordAddr_toNat b) d (byteOfWord (b.getLsbD 0))
  rwa [byteOfWord_eq_programByte] at hload

/-- The end of LPM where no such word exists. -/
theorem lpmFrom_silent {b : Word} {s : State} (h : SilentWord s (lpmWordAddr b)) (d : Reg) :
    ∃ t, lpmFrom d b s = .next t ∧ ProgLoadFailed b.toNat s t ∧ t.rampz = s.rampz ∧ t.regs = s.regs :=
  progRead_silent h (lpmWordAddr_toNat b) _

/-- `LPM Rd, Z+` with Rd no byte of Z: the pointer is stepped before the read. -/
theorem exec_lpmZInc {d : Reg} (hd : Ptr.z.isByte d = false) (s : State) :
    exec (.lpmZInc d) s = lpmFrom d (s.ptr .z) (s.setPtr .z (s.ptr .z + 1#16)) := by
  show execLpmZInc d s = _
  rw [execLpmZInc, unlessOwn_false hd]
  rfl

/-- Settles O49: each form with each answer to its read. -/
theorem lpmLoadsAByteOfAProgramWord : Obligations.LpmLoadsAByteOfAProgramWord := by
  refine ⟨encodes_row 71 (by decide), encodes_row 30 (by decide), encodes_row 31 (by decide), fun d s a wa ha hwa => ?_⟩
  subst ha
  obtain rfl : wa = lpmWordAddr (s.ptr .z) := BitVec.eq_of_toNat_eq (hwa.trans (lpmWordAddr_toNat _).symm)
  refine ⟨exec_own (.lpmZInc d) s, fun w hw => ⟨lpmFrom_answered hw 0, lpmFrom_answered hw d, fun hd => ?_⟩,
    fun hw => ⟨?_, fun hd => ?_⟩⟩
  · have hw' : AnswersWord (s.setPtr .z (s.ptr .z + 1#16)) (lpmWordAddr (s.ptr .z)) w :=
      (readProgramMemory_setPtr_answer ..).trans hw
    obtain ⟨t, hend, hframe, hrampz, hdest, hothers⟩ := lpmFrom_answered hw' d
    rw [exec_lpmZInc hd]
    exact ⟨t, hend, hframe, hrampz, hdest, ptr_stepped hd hothers,
      fun j hj hz => (hothers j hj).trans (s.reg_setPtr_of_not_byte hz _)⟩
  · rintro i (rfl | rfl)
    · exact lpmFrom_silent hw 0
    · exact lpmFrom_silent hw d
  · have hw' : SilentWord (s.setPtr .z (s.ptr .z + 1#16)) (lpmWordAddr (s.ptr .z)) :=
      (readProgramMemory_setPtr_answer ..).trans hw
    obtain ⟨t, hend, hfail, hrampz, hregs⟩ := lpmFrom_silent hw' d
    rw [exec_lpmZInc hd]
    exact ⟨t, hend, hfail, hrampz, ptr_stepped_of_regs hregs⟩

/-! ## Read, then write the same address -/

/-- One read of an address and one write of it. -/
theorem called_readThenWrite (a : Word) (v : Byte) (s : State) :
    Called [.dataRead a.toNat, .dataWrite a.toNat v] s (writeDataMemory a v (readDataMemory a s).2).2 :=
  (called_readDataMemory a s).trans (called_writeDataMemory a v _)

/-- A read leaves the kind of an address that is plain memory for writes. -/
theorem HoldsWrites.afterRead {a : Word} {s : State} (h : HoldsWrites s a) : HoldsWrites (readDataMemory a s).2 a := by
  have hregions : (readDataMemory a s).2.regions = s.regions := by
    rcases h with h | h <;> simp only [readDataMemory, h] <;> rfl
  rw [HoldsWrites, hregions]
  exact h

/-- The read answered and the write taken: what follows runs with the byte read. -/
theorem readThenWrite_taken {a : Word} {s : State} {m v : Byte} {g : Byte → Byte} (hg : g m = v) (hr : Answers s a m)
    (hw : Takes (readDataMemory a s).2 a v) (k : Byte → State → Outcome) :
    (memRead a s fun x u => memWrite a (g x) u (k x)) = k m (writeDataMemory a v (readDataMemory a s).2).2 := by
  rw [memRead_some hr, hg, memWrite_true hw]

/-- The read answered and the write rejected, whatever was to follow. -/
theorem readThenWrite_rejected {a : Word} {s : State} {m v : Byte} {g : Byte → Byte} (hg : g m = v) (hr : Answers s a m)
    (hw : Rejects (readDataMemory a s).2 a v) (k : Byte → State → Outcome) :
    ∃ t, (memRead a s fun x u => memWrite a (g x) u (k x)) = .next t ∧
      FailedAfter (.addressUnwritable a.toNat v) [.dataRead a.toNat, .dataWrite a.toNat v] s t := by
  rw [memRead_some hr, hg, memWrite_false hw]
  exact ⟨_, rfl, (called_readThenWrite a v s).failed nofun⟩

/-- The four exchanges over their common end, `v` the byte each writes where it read `m` (R430..R433). -/
theorem exec_exchange {d : Reg} {s : State} {i : Instr} {m v : Byte}
    (h : (i = .xch d ∧ v = s.reg d) ∨ (i = .las d ∧ v = m ||| s.reg d) ∨ (i = .lac d ∧ v = m &&& ~~~(s.reg d)) ∨
      (i = .lat d ∧ v = m ^^^ s.reg d)) :
    ∃ f : Byte → Byte → Byte, exec i s = exchangeZ f d s ∧ f m (s.reg d) = v := by
  rcases h with ⟨rfl, rfl⟩ | ⟨rfl, rfl⟩ | ⟨rfl, rfl⟩ | ⟨rfl, rfl⟩
  · exact ⟨fun _ x => x, rfl, rfl⟩
  · exact ⟨fun m x => m ||| x, rfl, rfl⟩
  · exact ⟨fun m x => m &&& ~~~x, rfl, rfl⟩
  · exact ⟨fun m x => m ^^^ x, rfl, rfl⟩

/-- Settles O51: the four forms are one read and one write of Z, and differ in the byte written. -/
theorem exchangesReadThenWriteAtZ : Obligations.ExchangesReadThenWriteAtZ := by
  refine ⟨encodes_row 43 (by decide), encodes_row 44 (by decide), encodes_row 45 (by decide), encodes_row 46 (by decide),
    fun d s z i m v hz hi => ?_⟩
  obtain ⟨f, hexec, hf⟩ := exec_exchange hi
  obtain rfl : z = s.ptr .z := hz
  rw [hexec, exchangeZ]
  refine ⟨fun hr hw => ?_, fun hr hw => readThenWrite_rejected (g := fun x => f x (s.reg d)) hf hr hw _,
    fun hs => memRead_silent hs _⟩
  have hc := called_readThenWrite (s.ptr .z) v s
  exact ⟨_, readThenWrite_taken (g := fun x => f x (s.reg d)) hf hr hw fun x u => finish 2 (u.setReg d x),
    ((hc.setReg d m).finish 2).fromRegs rfl, fun hh => read_writeDataMemory hh.afterRead v, State.reg_setReg_self _ d m,
    fun j hj => (State.reg_setReg_of_ne _ hj m).trans (hc.reg j)⟩

/-- The data address of a 5-bit I/O address (R73). -/
theorem ioAddr5_toNat (a : BitVec 5) : (ioAddr5 a).toNat = 0x20 + a.toNat := by
  have ha := a.isLt
  simp only [ioAddr5, BitVec.truncate_eq_setWidth, BitVec.toNat_add, BitVec.toNat_setWidth, BitVec.toNat_ofNat]
  omega

/-- Bit k of the byte with only bit b set. -/
theorem getLsbD_bitMask (b : BitNo) (k : Nat) : (bitMask b).getLsbD k = decide (k = b.val) := by
  have hb := b.isLt
  rw [Bool.eq_iff_iff]
  simp only [bitMask, BitVec.getLsbD_shiftLeft, BitVec.getLsbD_one, Bool.and_eq_true, Bool.not_eq_true',
    decide_eq_true_eq, decide_eq_false_iff_not]
  omega

/-- Bit k of a byte with bit b replaced (R501). -/
theorem getLsbD_withBit (v : Byte) (b : BitNo) (x : Bool) (k : Nat) :
    (withBit v b x).getLsbD k = if k = b.val then x else v.getLsbD k := by
  by_cases h : k = b.val
  · cases x <;> simp [withBit, getLsbD_bitMask, h]
  · have hlt : v.getLsbD k = true → k < 8 := BitVec.lt_of_getLsbD
    cases x with
    | true => simp [withBit, getLsbD_bitMask, h]
    | false => simpa [withBit, getLsbD_bitMask, h] using hlt

/-- CBI and SBI over their common end (R505, R506). -/
theorem exec_modifyIo {a : BitVec 5} {b : BitNo} {i : Instr} {x : Bool}
    (h : (i = .cbi a b ∧ x = false) ∨ (i = .sbi a b ∧ x = true)) (s : State) :
    exec i s = modifyIo (ioAddr5 a) (fun m => withBit m b x) s := by
  rcases h with ⟨rfl, rfl⟩ | ⟨rfl, rfl⟩ <;> rfl

/-- Settles O56: both forms are one read and one write of the I/O byte, which differ in the bit written. -/
theorem cbiAndSbiReadThenWriteTheByte : Obligations.CbiAndSbiReadThenWriteTheByte := by
  refine ⟨encodes_row 81 (by decide), encodes_row 83 (by decide), fun a b addr s i x m v haddr hi hv => ?_⟩
  obtain rfl : addr = ioAddr5 a := BitVec.eq_of_toNat_eq (haddr.trans (ioAddr5_toNat a).symm)
  have hg : withBit m b x = v := BitVec.eq_of_getLsbD_eq fun k _ => (getLsbD_withBit m b x k).trans (hv k).symm
  rw [exec_modifyIo hi, modifyIo]
  refine ⟨fun hr hw => ?_, fun hr hw => readThenWrite_rejected (g := fun m => withBit m b x) hg hr hw _,
    fun hs => memRead_silent hs _⟩
  exact ⟨_, readThenWrite_taken (g := fun m => withBit m b x) hg hr hw fun _ u => finish 2 u,
    (called_readThenWrite _ v s).finish 2, fun hh => read_writeDataMemory hh.afterRead v⟩

/-! ## Skips -/

/-- What Skip() passes: the word read, and the one after it where that word is long (R314). -/
theorem skip_answered {s : State} {w : Word} (h : AnswersWord s (fetchAt s) w) :
    ∃ t, skip s = .next t ∧ Ran (if isLong w then 3 else 2) [.progRead s.pc.toNat]
      { s with pc := maskPc s.params.pcWidth (s.pc + if isLong w then 2#22 else 1#22) } t := by
  have hc := called_fetched s
  rw [skip, fetchWord_some h]
  cases isLong w with
  | false => exact ⟨_, rfl, hc.finish 2⟩
  | true =>
    have hpc : maskPc s.params.pcWidth ((fetched s).pc + 1#22) = maskPc s.params.pcWidth (s.pc + 2#22) := by
      rw [fetched_pc, maskPc_succ_succ]
    have hlong : Called [.progRead s.pc.toNat] { s with pc := maskPc s.params.pcWidth ((fetched s).pc + 1#22) }
        ((fetched s).setPc ((fetched s).pc + 1#22)) := hc.setPc _
    rw [hpc] at hlong
    exact ⟨_, rfl, hlong.finish 3⟩

/-- A skip instruction, its condition given. -/
theorem skips_skipIf (cond : Bool) (s : State) : Skips (skipIf cond s) cond s := by
  refine ⟨?_, ?_, ?_⟩ <;> rintro rfl
  · exact ⟨_, rfl, rfl⟩
  · exact fun w hw => skip_answered hw
  · intro hs
    rw [skipIf, skip]
    exact fetchWord_silent (called_nil s) hs _

/-- Settles O42: each form is a skip with its own condition, SBIC and SBIS after their one read. -/
theorem skipsPassTheNextInstruction : Obligations.SkipsPassTheNextInstruction := by
  refine ⟨encodes_row 10 (by decide), encodes_row 95 (by decide), encodes_row 96 (by decide), encodes_row 82 (by decide),
    encodes_row 84 (by decide), fun s => ⟨fun d r => skips_skipIf _ s, fun r b => skips_skipIf _ s,
    fun r b => skips_skipIf _ s, fun a b addr haddr => ?_⟩⟩
  obtain rfl : addr = ioAddr5 a := BitVec.eq_of_toNat_eq (haddr.trans (ioAddr5_toNat a).symm)
  refine ⟨fun v u hv hu => ?_, fun hs i hi => ?_⟩
  · subst hu
    have hsbic : exec (.sbic a b) s = skipIf (!bitOf v b) (readDataMemory (ioAddr5 a) s).2 := memRead_some hv _
    have hsbis : exec (.sbis a b) s = skipIf (bitOf v b) (readDataMemory (ioAddr5 a) s).2 := memRead_some hv _
    rw [hsbic, hsbis]
    exact ⟨called_readDataMemory _ s, skips_skipIf _ _, skips_skipIf _ _⟩
  · rcases hi with rfl | rfl <;> exact memRead_silent hs _

/-! ## The core's fields and the maps at the end of a step -/

theorem Ran.params {n : Nat} {xs : List BusAccess} {u t : State} (h : Ran n xs u t) : t.params = u.params := by
  rw [h.1]; rfl

theorem Ran.pc {n : Nat} {xs : List BusAccess} {u t : State} (h : Ran n xs u t) : t.pc = u.pc := by
  rw [h.1]; rfl

theorem Ran.sp {n : Nat} {xs : List BusAccess} {u t : State} (h : Ran n xs u t) : t.sp = u.sp := by
  rw [h.1]; rfl

theorem Ran.sreg {n : Nat} {xs : List BusAccess} {u t : State} (h : Ran n xs u t) : t.sreg = u.sreg := by
  rw [h.1]; rfl

theorem Ran.cycles {n : Nat} {xs : List BusAccess} {u t : State} (h : Ran n xs u t) :
    t.cycles = u.cycles + BitVec.ofNat 64 n := by
  rw [h.1]

theorem Ran.regions {n : Nat} {xs : List BusAccess} {u t : State} (h : Ran n xs u t) (hu : Undisturbed u xs) :
    t.regions = u.regions := by
  obtain ⟨-, hkept⟩ := h
  obtain ⟨-, hregions, -, -⟩ := hkept hu
  exact hregions

/-- Writes of plain memory disturb nothing. -/
theorem undisturbed_offers_of_ram {l : List (Word × Byte)} {s : State}
    (h : ∀ x ∈ l, regionKind s.regions x.1.toNat = .ram) : Undisturbed s (offers l) := by
  intro y hy
  obtain ⟨x, hx, rfl⟩ := List.mem_map.mp hy
  rw [BusAccess.kind, h x hx]
  decide

/-- Register by register, the register files are equal. -/
theorem State.regs_ext {s t : State} (h : ∀ j, t.reg j = s.reg j) : t.regs = s.regs :=
  Vector.ext fun j hj => h ⟨j, hj⟩

/-! ## PUSH and POP -/

/-- Settles O53: PUSH leaves SP one below a byte that plain memory holds, and POP loads that byte. -/
theorem pushThenPopRestoresRegisterAndSp : Obligations.PushThenPopRestoresRegisterAndSp := by
  intro r s t hram hexec
  obtain ⟨-, -, hops⟩ := pushAndPopMoveSp
  obtain ⟨hpush, -, -, -⟩ := hops r s
  obtain ⟨-, -, hpop, -⟩ := hops r t
  obtain ⟨t', hexec', ⟨hran, hheld⟩, hregs⟩ := hpush (takes_of_ram hram (s.reg r))
  obtain rfl : t = t' := by simpa [hexec] using hexec'
  have hregions : t.regions = s.regions :=
    hran.regions (undisturbed_offers_of_ram (l := [(s.sp, s.reg r)]) (by simpa using hram))
  have hsp : t.sp + 1#16 = s.sp := by rw [hran.sp]; exact BitVec.sub_add_cancel ..
  have hanswer : Answers t (t.sp + 1#16) (s.reg r) := by
    rw [hsp]
    exact (answers_iff_of_ram (hregions ▸ hram) _).mpr (hheld (.inl hram))
  obtain ⟨u, hexecPop, hload, hdest, hothers⟩ := hpop _ hanswer
  have hregsPop : u.regs = t.regs := State.regs_ext fun j => by
    by_cases hj : j = r
    · rw [hj, hdest, State.reg_eq_of_regs_eq hregs]
    · exact hothers j hj
  refine ⟨u, hexecPop, hregsPop.trans hregs, hload.sp.trans hsp, hload.sreg.trans hran.sreg, ?_⟩
  rw [hload.cycles]
  show t.cycles + 2#64 = s.cycles + 4#64
  rw [hran.cycles]
  exact BitVec.add_assoc s.cycles 2#64 2#64

/-! ## Writes one after the other -/

/-- The state after the port has been offered these writes, in order. -/
def afterWrites : List (Word × Byte) → State → State
  | [], s => s
  | (a, v) :: l, s => afterWrites l (writeDataMemory a v s).2

theorem called_afterWrites (l : List (Word × Byte)) (s : State) : Called (offers l) s (afterWrites l s) := by
  induction l generalizing s with
  | nil => exact called_nil s
  | cons x l ih => exact (called_writeDataMemory x.1 x.2 s).trans (ih _)

/-- Calls that are undisturbed by the maps before others are so by the maps after those. -/
theorem Undisturbed.afterCalls {xs ys : List BusAccess} {s u : State} (h : Undisturbed s (xs ++ ys)) (hc : Called xs s u) :
    Undisturbed u ys := by
  obtain ⟨-, hkept⟩ := hc
  obtain ⟨-, hregions, hprogRegions, -⟩ := hkept h.of_append
  intro y hy
  rw [y.kind_congr hregions hprogRegions]
  exact h y (List.mem_append_right xs hy)

/-- A byte that plain memory was given is held after writes to other addresses. -/
theorem read_afterWrites {l : List (Word × Byte)} {s : State} (hl : (l.map Prod.fst).Nodup) (hu : Undisturbed s (offers l))
    {x : Word × Byte} (hx : x ∈ l) (hh : HoldsWrites s x.1) :
    Memory.read (afterWrites l s).data x.1.toNat = x.2 := by
  induction l generalizing s with
  | nil => cases hx
  | cons y l ih =>
    obtain ⟨hy, hl⟩ := List.nodup_cons.mp hl
    have hc := called_writeDataMemory y.1 y.2 s
    have hu' : Undisturbed (writeDataMemory y.1 y.2 s).2 (offers l) := Undisturbed.afterCalls (xs := [_]) hu hc
    rcases List.mem_cons.mp hx with rfl | hx
    · obtain ⟨-, -, -, hdata⟩ := (called_afterWrites l (writeDataMemory x.1 x.2 s).2).2 hu'
      refine (hdata x.1.toNat fun v hv => hy ?_).trans (read_writeDataMemory hh x.2)
      obtain ⟨z, hz, he⟩ := List.mem_map.mp hv
      have haddr : z.1 = x.1 := BitVec.eq_of_toNat_eq (BusAccess.dataWrite.inj he).1
      exact haddr ▸ List.mem_map_of_mem hz
    · obtain ⟨-, hregions, -, -⟩ := hc.2 (Undisturbed.of_append (xs := [_]) hu)
      exact ih hl hu' hx (by rw [HoldsWrites, hregions]; exact hh)

/-- Plain memory takes the writes, one after the other. -/
theorem takesAll_of_ram {l : List (Word × Byte)} {s : State} (h : ∀ x ∈ l, regionKind s.regions x.1.toNat = .ram) :
    TakesAll l s := by
  induction l generalizing s with
  | nil => trivial
  | cons x l ih =>
    have hx := h x List.mem_cons_self
    refine ⟨takes_of_ram hx x.2, ih fun y hy => ?_⟩
    rw [regions_writeDataMemory_kept (.inl hx)]
    exact h y (List.mem_cons_of_mem x hy)

/-- The bytes of a return address go to different addresses, also where SP wraps. -/
theorem returnPushes_nodup (w : PcWidth) (sp : Word) (a : PcWord) : ((returnPushes w sp a).map Prod.fst).Nodup := by
  cases w with
  | pc16 =>
    have h1 : sp ≠ sp - 1#16 := by bv_omega
    simp [returnPushes, h1]
  | pc22 =>
    have h1 : sp ≠ sp - 1#16 := by bv_omega
    have h2 : sp ≠ sp - 2#16 := by bv_omega
    have h3 : sp - 1#16 ≠ sp - 2#16 := by bv_omega
    simp [returnPushes, h1, h2, h3]

/-! ## Pushes of a return address

Each is said of a state `s.setSp a`, `s` the state as the port has left it: the port does not look at SP. -/

theorem pushByte_taken_at {a b : Word} {v : Byte} {s : State} (hb : a - 1#16 = b) (h : Takes s a v) (k : State → Outcome) :
    pushByte v (s.setSp a) k = k ((writeDataMemory a v s).2.setSp b) := by
  have hw := writeDataMemory_setSp a v s a
  have ht : (writeDataMemory a v (s.setSp a)).1 = true := by rw [hw]; exact h
  rw [pushByte, State.setSp_sp, memWrite_true ht, hw, ← hb]
  rfl

theorem pushByte_rejected_at {a : Word} {v : Byte} {s : State} (h : Rejects s a v) (k : State → Outcome) :
    pushByte v (s.setSp a) k = raise (.addressUnwritable a.toNat v) ((writeDataMemory a v s).2.setSp a) := by
  have hw := writeDataMemory_setSp a v s a
  have hf : (writeDataMemory a v (s.setSp a)).1 = false := by rw [hw]; exact h
  rw [pushByte, State.setSp_sp, memWrite_false hf, hw]

/-- The state after the two low bytes of the return address `a` are pushed, taken or not, with `sp` for SP. -/
def afterTwoPushes (a : PcWord) (s : State) (sp : Word) : State := (afterWrites (returnPushes .pc16 s.sp a) s).setSp sp

theorem afterTwoPushes_params (a : PcWord) (s : State) (sp : Word) : (afterTwoPushes a s sp).params = s.params :=
  (called_afterWrites _ s).params

/-- Two bytes pushed. -/
theorem pushTwo_taken {s : State} {a : PcWord} (h : TakesAll (returnPushes .pc16 s.sp a) s) (k : State → Outcome) :
    (pushByte (a.extractLsb' 0 8) s fun u => pushByte (a.extractLsb' 8 8) u k) = k (afterTwoPushes a s (s.sp - 2#16)) := by
  obtain ⟨hlow, hhigh, -⟩ := h
  have hsp : s.sp - 1#16 - 1#16 = s.sp - 2#16 := by bv_omega
  exact (pushByte_taken_at rfl hlow _).trans (pushByte_taken_at hsp hhigh k)

/-- With a 22-bit PC the third byte is pushed after the two (R80). -/
theorem pushRet_pc22_third {s : State} {a : PcWord} (hw : s.params.pcWidth = .pc22) (h : TakesAll (returnPushes .pc16 s.sp a) s)
    (k : State → Outcome) :
    pushRet a s k = pushByte ((a.extractLsb' 16 6).zeroExtend 8) (afterTwoPushes a s (s.sp - 2#16)) k := by
  rw [pushRet, pushTwo_taken h, afterTwoPushes_params, hw]

/-- Every byte of the return address pushed (R80). -/
theorem pushRet_taken {s : State} {a : PcWord} (h : TakesAll (returnPushes s.params.pcWidth s.sp a) s) (k : State → Outcome) :
    pushRet a s k = k ((afterWrites (returnPushes s.params.pcWidth s.sp a) s).setSp (s.sp - returnBytes s.params.pcWidth)) := by
  cases hw : s.params.pcWidth with
  | pc16 =>
    rw [hw] at h
    rw [pushRet, pushTwo_taken h, afterTwoPushes_params, hw]
    rfl
  | pc22 =>
    rw [hw] at h
    obtain ⟨hlow, hhigh, hext, -⟩ := h
    have hsp : s.sp - 2#16 - 1#16 = s.sp - 3#16 := by bv_omega
    exact (pushRet_pc22_third hw ⟨hlow, hhigh, trivial⟩ k).trans (pushByte_taken_at hsp hext k)

/-- The first push rejected. -/
theorem pushRet_rejected_first {s : State} {a : PcWord} (h : Rejects s s.sp (a.extractLsb' 0 8)) (k : State → Outcome) :
    pushRet a s k = raise (.addressUnwritable s.sp.toNat (a.extractLsb' 0 8))
      (afterWrites [(s.sp, a.extractLsb' 0 8)] s) := memWrite_false h _

/-- The second push rejected: SP has moved for the first. -/
theorem pushRet_rejected_second {s : State} {a : PcWord} (hlow : Takes s s.sp (a.extractLsb' 0 8))
    (hhigh : Rejects (writeDataMemory s.sp (a.extractLsb' 0 8) s).2 (s.sp - 1#16) (a.extractLsb' 8 8)) (k : State → Outcome) :
    pushRet a s k = raise (.addressUnwritable (s.sp - 1#16).toNat (a.extractLsb' 8 8))
      (afterTwoPushes a s (s.sp - 1#16)) :=
  (pushByte_taken_at rfl hlow _).trans (pushByte_rejected_at hhigh _)

/-- The third push rejected: SP has moved for the first two. -/
theorem pushRet_rejected_third {s : State} {a : PcWord} (hw : s.params.pcWidth = .pc22)
    (ht : TakesAll (returnPushes .pc16 s.sp a) s)
    (hext : Rejects (afterWrites (returnPushes .pc16 s.sp a) s) (s.sp - 2#16) ((a.extractLsb' 16 6).zeroExtend 8))
    (k : State → Outcome) :
    pushRet a s k = raise (.addressUnwritable (s.sp - 2#16).toNat ((a.extractLsb' 16 6).zeroExtend 8))
      ((afterWrites (returnPushes .pc22 s.sp a) s).setSp (s.sp - 2#16)) :=
  (pushRet_pc22_third hw ht k).trans (pushByte_rejected_at hext k)

/-! ## Calls -/

/-- From `s`, `i` is a call to `target` of `n` cycles (R305..R308). -/
def CallsTo (s : State) (i : Instr) (target : PcWord) (n : Nat) : Prop :=
  (∃ k : BitVec 12, i = .rcall k ∧ target = s.pc + k.signExtend 22 ∧ n = if s.params.pcWidth = .pc16 then 3 else 4) ∨
  (i = .call target ∧ n = if s.params.pcWidth = .pc16 then 4 else 5) ∨
  (i = .icall ∧ target = (s.reg 31 ++ s.reg 30).zeroExtend 22 ∧ n = if s.params.pcWidth = .pc16 then 3 else 4) ∨
  (i = .eicall ∧ s.params.pcWidth = .pc22 ∧ target = (s.eind ++ (s.reg 31 ++ s.reg 30)).extractLsb' 0 22 ∧ n = 4)

theorem callCost_eq (w : PcWidth) : callCost w = if w = .pc16 then 3 else 4 := by cases w <;> rfl
theorem longCallCost_eq (w : PcWidth) : longCallCost w = if w = .pc16 then 4 else 5 := by cases w <;> rfl

/-- EICALL after its check of the width (R308). -/
theorem exec_eicall (s : State) : exec .eicall s =
    needs22 .eicall s fun u => pushRet u.pc u fun v => finish (callCost .pc22) (v.setPc (eindZ u)) := rfl

/-- Every call pushes the return address, then jumps (R304). -/
theorem exec_call {s : State} {i : Instr} {target : PcWord} {n : Nat} (h : CallsTo s i target n) :
    exec i s = pushRet s.pc s fun u => finish n (u.setPc target) := by
  rcases h with ⟨k, rfl, rfl, rfl⟩ | ⟨rfl, rfl⟩ | ⟨rfl, rfl, rfl⟩ | ⟨rfl, h22, rfl, rfl⟩
  · rw [← callCost_eq]; rfl
  · rw [← longCallCost_eq]; rfl
  · rw [← callCost_eq]; rfl
  · rw [exec_eicall, needs22_pc22 h22]; rfl

/-- Each of the call instructions is a call to some target. -/
theorem callsTo_of_call {s : State} {i : Instr} (h : (∃ k, i = .rcall k) ∨ (∃ k, i = .call k) ∨ i = .icall ∨
    (i = .eicall ∧ s.params.pcWidth = .pc22)) : ∃ target n, CallsTo s i target n := by
  rcases h with ⟨k, rfl⟩ | ⟨k, rfl⟩ | rfl | ⟨rfl, h22⟩
  · exact ⟨_, _, .inl ⟨k, rfl, rfl, rfl⟩⟩
  · exact ⟨_, _, .inr (.inl ⟨rfl, rfl⟩)⟩
  · exact ⟨_, _, .inr (.inr (.inl ⟨rfl, rfl, rfl⟩))⟩
  · exact ⟨_, _, .inr (.inr (.inr ⟨rfl, h22, rfl, rfl⟩))⟩

/-- A call whose pushes are taken. -/
theorem exec_call_taken {s : State} {i : Instr} {target : PcWord} {n : Nat} (hi : CallsTo s i target n)
    (ht : TakesAll (returnPushes s.params.pcWidth s.sp s.pc) s) :
    ∃ t, exec i s = .next t ∧
      Ran n (offers (returnPushes s.params.pcWidth s.sp s.pc))
        { s with pc := maskPc s.params.pcWidth target, sp := s.sp - returnBytes s.params.pcWidth } t ∧
      (Undisturbed s (offers (returnPushes s.params.pcWidth s.sp s.pc)) →
        ∀ x ∈ returnPushes s.params.pcWidth s.sp s.pc, HoldsWrites s x.1 → Memory.read t.data x.1.toNat = x.2) := by
  have hc := ((called_afterWrites (returnPushes s.params.pcWidth s.sp s.pc) s).setSp
    (s.sp - returnBytes s.params.pcWidth)).setPc target
  rw [exec_call hi, pushRet_taken ht]
  exact ⟨_, rfl, hc.finish n, fun hu x hx hh => read_afterWrites (returnPushes_nodup ..) hu hx hh⟩

/-- Settles O37: the calls over their common end, and EICALL's check of the width. -/
theorem callsPushTheReturnAddress : Obligations.CallsPushTheReturnAddress := by
  refine ⟨encodes_row 89 (by decide), encodes_row 78 (by decide), encodes_row 75 (by decide), encodes_row 76 (by decide),
    fun _ _ _ _ hi ht => exec_call_taken hi ht, fun s h16 => ?_⟩
  rw [exec_eicall]
  exact needs22_fails h16 .eicall _

/-- Settles O38: the first, the second and the third push rejected. -/
theorem failedPushLeavesACallHalfDone : Obligations.FailedPushLeavesACallHalfDone := by
  intro s i hi
  obtain ⟨target, n, hcall⟩ := callsTo_of_call hi
  rw [exec_call hcall]
  refine ⟨fun hlow => ?_, fun hlow hhigh => ?_, fun h22 ht hext => ?_⟩
  · rw [pushRet_rejected_first hlow]
    exact ⟨_, rfl, (called_afterWrites _ s).failed nofun⟩
  · rw [pushRet_rejected_second hlow hhigh]
    exact ⟨_, rfl, ((called_afterWrites _ s).setSp _).failed nofun,
      fun hu => read_afterWrites (returnPushes_nodup ..) hu List.mem_cons_self⟩
  · rw [pushRet_rejected_third h22 ht hext]
    exact ⟨_, rfl, ((called_afterWrites _ s).setSp _).failed nofun, fun hu =>
      ⟨read_afterWrites (returnPushes_nodup ..) hu List.mem_cons_self,
        read_afterWrites (returnPushes_nodup ..) hu (List.mem_cons_of_mem _ List.mem_cons_self)⟩⟩

/-! ## Reads one after the other, and the pops of a return address -/

/-- The state after the port has been asked for these bytes, in order. -/
def afterReads : List Word → State → State
  | [], s => s
  | a :: l, s => afterReads l (readDataMemory a s).2

theorem called_afterReads (l : List Word) (s : State) :
    Called (l.map fun a => .dataRead a.toNat) s (afterReads l s) := by
  induction l generalizing s with
  | nil => exact called_nil s
  | cons a l ih => exact (called_readDataMemory a s).trans (ih _)

/-- Plain memory answers the bytes it holds, one after the other. -/
theorem answersAll_of_ram {l : List (Word × Byte)} {s : State} (h : ∀ x ∈ l, regionKind s.regions x.1.toNat = .ram)
    (hd : ∀ x ∈ l, Memory.read s.data x.1.toNat = x.2) : AnswersAll l s := by
  induction l generalizing s with
  | nil => trivial
  | cons x l ih =>
    have hx := h x List.mem_cons_self
    refine ⟨(answers_iff_of_ram hx x.2).mpr (hd x List.mem_cons_self), ?_⟩
    rw [readDataMemory_held (.inl hx)]
    exact ih (fun y hy => h y (List.mem_cons_of_mem x hy)) fun y hy => hd y (List.mem_cons_of_mem x hy)

theorem popByte_answered_at {a b : Word} {v : Byte} {s : State} (hb : a + 1#16 = b) (h : Answers s b v)
    (k : Byte → State → Outcome) : popByte (s.setSp a) k = k v ((readDataMemory b s).2.setSp b) := by
  subst hb
  have hr := readDataMemory_setSp (a + 1#16) s (a + 1#16)
  have ha : (readDataMemory (a + 1#16) (s.setSp (a + 1#16))).1 = some v := by rw [hr]; exact h
  exact (memRead_some ha k).trans (by rw [hr])

theorem popByte_silent_at {a b : Word} {s : State} (hb : a + 1#16 = b) (h : Silent s b) (k : Byte → State → Outcome) :
    popByte (s.setSp a) k = raise (.addressUnreadable .data b.toNat) ((readDataMemory b s).2.setSp b) := by
  subst hb
  have hr := readDataMemory_setSp (a + 1#16) s (a + 1#16)
  have ha : (readDataMemory (a + 1#16) (s.setSp (a + 1#16))).1 = none := by rw [hr]; exact h
  exact (memRead_none ha k).trans (by rw [hr])

theorem add_one_one (a : Word) : a + 1#16 + 1#16 = a + 2#16 := BitVec.add_assoc a 1#16 1#16
theorem add_two_one (a : Word) : a + 2#16 + 1#16 = a + 3#16 := BitVec.add_assoc a 2#16 1#16

/-- Two bytes popped. -/
theorem popTwo_answered {s : State} {x y : Byte} (h : AnswersAll [(s.sp + 1#16, x), (s.sp + 2#16, y)] s)
    (k : Byte → Byte → State → Outcome) : (popByte s fun x u => popByte u (k x)) =
      k x y ((afterReads [s.sp + 1#16, s.sp + 2#16] s).setSp (s.sp + 2#16)) := by
  obtain ⟨hx, hy, -⟩ := h
  exact (popByte_answered_at rfl hx _).trans (popByte_answered_at (add_one_one s.sp) hy _)

/-- At either width the pops of a return address begin with two. -/
theorem popRet_two (s : State) (k : PcWord → State → Outcome) :
    ∃ r : Byte → Byte → State → Outcome, popRet s k = popByte s fun x u => popByte u (r x) := by
  unfold popRet
  split <;> exact ⟨_, rfl⟩

/-- The return address popped with a 16-bit PC. -/
theorem popRet_pc16 {s : State} (hw : s.params.pcWidth = .pc16) {h l : Byte}
    (ha : AnswersAll [(s.sp + 1#16, h), (s.sp + 2#16, l)] s) (k : PcWord → State → Outcome) :
    popRet s k = k (joinRet 0#8 h l) ((afterReads [s.sp + 1#16, s.sp + 2#16] s).setSp (s.sp + 2#16)) := by
  rw [popRet, hw]
  exact popTwo_answered ha _

/-- With a 22-bit PC a third byte is popped after the two (R81). -/
theorem popRet_pc22_third {s : State} (hw : s.params.pcWidth = .pc22) {e h : Byte}
    (ha : AnswersAll [(s.sp + 1#16, e), (s.sp + 2#16, h)] s) (k : PcWord → State → Outcome) :
    popRet s k = popByte ((afterReads [s.sp + 1#16, s.sp + 2#16] s).setSp (s.sp + 2#16)) fun l u => k (joinRet e h l) u := by
  rw [popRet, hw]
  exact popTwo_answered ha _

/-- The return address popped with a 22-bit PC. -/
theorem popRet_pc22 {s : State} (hw : s.params.pcWidth = .pc22) {e h l : Byte}
    (ha : AnswersAll [(s.sp + 1#16, e), (s.sp + 2#16, h), (s.sp + 3#16, l)] s) (k : PcWord → State → Outcome) :
    popRet s k = k (joinRet e h l) ((afterReads [s.sp + 1#16, s.sp + 2#16, s.sp + 3#16] s).setSp (s.sp + 3#16)) := by
  obtain ⟨hext, hhigh, hlow, -⟩ := ha
  exact (popRet_pc22_third hw ⟨hext, hhigh, trivial⟩ k).trans (popByte_answered_at (add_two_one s.sp) hlow _)

/-! ## Returns -/

/-- The flags after RET and RETI: "same, then set I=1" (R309, R310). -/
def flagsAfterReturn (i : Instr) (f : Sreg) : Sreg := if i = .reti then { f with i := true } else f

/-- RET and RETI over their common end. -/
theorem exec_return {i : Instr} (h : i = .ret ∨ i = .reti) (s : State) : exec i s =
    popRet s fun a u => finish (returnCost s.params.pcWidth) ((u.setPc a).setSreg (flagsAfterReturn i u.sreg)) := by
  rcases h with rfl | rfl <;> rfl

/-- Two values side by side, as a number. -/
theorem append_toNat {n m : Nat} (a : BitVec n) (b : BitVec m) : (a ++ b).toNat = a.toNat * 2 ^ m + b.toNat := by
  rw [BitVec.toNat_append, ← Nat.shiftLeft_add_eq_or_of_lt b.isLt, Nat.shiftLeft_eq]

/-- With a 16-bit PC the mask keeps the two bytes popped (R33, R81). -/
theorem maskPc_joinRet_pc16 (h l : Byte) : maskPc .pc16 (joinRet 0#8 h l) = (h ++ l).zeroExtend 22 := by
  have hh := h.isLt
  have hl := l.isLt
  apply BitVec.eq_of_toNat_eq
  simp only [maskPc_pc16_toNat, joinRet, BitVec.extractLsb'_toNat, append_toNat, BitVec.truncate_eq_setWidth,
    BitVec.toNat_setWidth, BitVec.toNat_ofNat, Nat.shiftRight_zero]
  omega

/-- RET and RETI where the pops answer the return address `a`. -/
theorem exec_return_answered {i : Instr} (hi : i = .ret ∨ i = .reti) {s : State} {a : PcWord} {l : List Word} {sp : Word}
    (hpop : ∀ k, popRet s k = k a ((afterReads l s).setSp sp)) :
    ∃ t, exec i s = .next t ∧ Ran (returnCost s.params.pcWidth) (l.map fun a => .dataRead a.toNat)
      { s with pc := maskPc s.params.pcWidth a, sp := sp, sreg := flagsAfterReturn i s.sreg } t := by
  have hc := called_afterReads l s
  rw [exec_return hi, hpop, State.setSp_sreg, hc.sreg]
  exact ⟨_, rfl, (((hc.setSp sp).setPc a).setSreg _).finish _⟩

/-- RET and RETI with a 16-bit PC, their two reads answered. -/
theorem exec_return_pc16 {i : Instr} (hi : i = .ret ∨ i = .reti) {s : State} (hw : s.params.pcWidth = .pc16) {h l : Byte}
    (ha : AnswersAll [(s.sp + 1#16, h), (s.sp + 2#16, l)] s) :
    ∃ t, exec i s = .next t ∧ Ran 4 [.dataRead (s.sp + 1#16).toNat, .dataRead (s.sp + 2#16).toNat]
      { s with pc := (h ++ l).zeroExtend 22, sp := s.sp + 2#16, sreg := flagsAfterReturn i s.sreg } t := by
  have hret := exec_return_answered hi (popRet_pc16 hw ha)
  rwa [hw, maskPc_joinRet_pc16] at hret

/-- RET and RETI with a 22-bit PC, their three reads answered. -/
theorem exec_return_pc22 {i : Instr} (hi : i = .ret ∨ i = .reti) {s : State} (hw : s.params.pcWidth = .pc22) {e h l : Byte}
    (ha : AnswersAll [(s.sp + 1#16, e), (s.sp + 2#16, h), (s.sp + 3#16, l)] s) :
    ∃ t, exec i s = .next t ∧
      Ran 5 [.dataRead (s.sp + 1#16).toNat, .dataRead (s.sp + 2#16).toNat, .dataRead (s.sp + 3#16).toNat]
        { s with pc := (e ++ h ++ l).extractLsb' 0 22, sp := s.sp + 3#16, sreg := flagsAfterReturn i s.sreg } t := by
  have hret := exec_return_answered hi (popRet_pc22 hw ha)
  rwa [hw] at hret

/-- Settles O39: the reads answered at either width, and the first, the second and the third not. -/
theorem returnsPopThePc : Obligations.ReturnsPopThePc := by
  refine ⟨encodes_row 66 (by decide), encodes_row 67 (by decide), fun s i f hi hf => ?_⟩
  subst hf
  refine ⟨fun hw h l ha => exec_return_pc16 hi hw ha, fun hw e h l ha => exec_return_pc22 hi hw ha, fun hs => ?_,
    fun x hx hs => ?_, fun hw x y ha hs => ?_⟩
  all_goals rw [exec_return hi]
  · obtain ⟨r, hr⟩ := popRet_two s _
    rw [hr]
    exact ⟨_, popByte_silent_at rfl hs _, ((called_afterReads [s.sp + 1#16] s).setSp _).failed nofun⟩
  · obtain ⟨r, hr⟩ := popRet_two s _
    rw [hr]
    exact ⟨_, (popByte_answered_at rfl hx _).trans (popByte_silent_at (add_one_one s.sp) hs _),
      ((called_afterReads [s.sp + 1#16, s.sp + 2#16] s).setSp _).failed nofun⟩
  · rw [popRet_pc22_third hw ha]
    exact ⟨_, popByte_silent_at (add_two_one s.sp) hs _,
      ((called_afterReads [s.sp + 1#16, s.sp + 2#16, s.sp + 3#16] s).setSp _).failed nofun⟩

/-! ## A call, then RET -/

/-- The bytes of a pc in range, with a 16-bit PC, side by side. -/
theorem pc_of_bytes_pc16 {a : PcWord} (h : maskPc .pc16 a = a) :
    (a.extractLsb' 8 8 ++ a.extractLsb' 0 8).zeroExtend 22 = a := by
  have ha := congrArg BitVec.toNat h
  rw [maskPc_pc16_toNat] at ha
  apply BitVec.eq_of_toNat_eq
  simp only [BitVec.truncate_eq_setWidth, BitVec.toNat_setWidth, append_toNat, BitVec.extractLsb'_toNat,
    Nat.shiftRight_eq_div_pow]
  omega

/-- The bytes of a pc, with a 22-bit PC, side by side. -/
theorem pc_of_bytes_pc22 (a : PcWord) :
    ((a.extractLsb' 16 6).zeroExtend 8 ++ a.extractLsb' 8 8 ++ a.extractLsb' 0 8).extractLsb' 0 22 = a := by
  have ha := a.isLt
  apply BitVec.eq_of_toNat_eq
  simp only [BitVec.truncate_eq_setWidth, BitVec.toNat_setWidth, append_toNat, BitVec.extractLsb'_toNat,
    Nat.shiftRight_eq_div_pow]
  omega

/-- RET where the stack answers, from SP upward, the bytes that a call at `sp` with the return address `a` pushed. -/
theorem exec_ret_of_pushed {u : State} {sp : Word} {a : PcWord} (ha : maskPc u.params.pcWidth a = a)
    (hsp : u.sp = sp - returnBytes u.params.pcWidth)
    (h : AnswersAll (returnPushes u.params.pcWidth sp a).reverse u) :
    ∃ v, exec .ret u = .next v ∧ v.pc = a ∧ v.sp = sp := by
  cases hw : u.params.pcWidth with
  | pc16 =>
    rw [hw] at ha hsp h
    have h1 : sp - 1#16 = u.sp + 1#16 := by rw [hsp, returnBytes]; bv_omega
    have h2 : sp = u.sp + 2#16 := by rw [hsp, returnBytes]; bv_omega
    have hreads : AnswersAll [(u.sp + 1#16, a.extractLsb' 8 8), (u.sp + 2#16, a.extractLsb' 0 8)] u := by
      rw [← h1, ← h2]; exact h
    obtain ⟨v, hexec, hran⟩ := exec_return_pc16 (.inl rfl) hw hreads
    exact ⟨v, hexec, hran.pc.trans (pc_of_bytes_pc16 ha), hran.sp.trans h2.symm⟩
  | pc22 =>
    rw [hw] at hsp h
    have h1 : sp - 2#16 = u.sp + 1#16 := by rw [hsp, returnBytes]; bv_omega
    have h2 : sp - 1#16 = u.sp + 2#16 := by rw [hsp, returnBytes]; bv_omega
    have h3 : sp = u.sp + 3#16 := by rw [hsp, returnBytes]; bv_omega
    have hreads : AnswersAll [(u.sp + 1#16, (a.extractLsb' 16 6).zeroExtend 8), (u.sp + 2#16, a.extractLsb' 8 8),
        (u.sp + 3#16, a.extractLsb' 0 8)] u := by
      rw [← h1, ← h2, ← h3]; exact h
    obtain ⟨v, hexec, hran⟩ := exec_return_pc22 (.inl rfl) hw hreads
    exact ⟨v, hexec, hran.pc.trans (pc_of_bytes_pc22 a), hran.sp.trans h3.symm⟩

/-- Settles O40: plain memory takes the bytes of the call, holds them, and answers them to RET in the reverse order. -/
theorem callThenReturnRestoresPcAndSp : Obligations.CallThenReturnRestoresPcAndSp := by
  intro s t u i hi hpc hram hexec hparams hregions hsp hdata
  obtain ⟨target, n, hcall⟩ := callsTo_of_call hi
  obtain ⟨t', hexec', hran, hheld⟩ := exec_call_taken hcall (takesAll_of_ram hram)
  obtain rfl : t = t' := by simpa [hexec] using hexec'
  have hu : Undisturbed s (offers (returnPushes s.params.pcWidth s.sp s.pc)) := undisturbed_offers_of_ram hram
  have hparams' : u.params = s.params := hparams.trans hran.params
  have hregions' : u.regions = s.regions := hregions.trans (hran.regions hu)
  refine exec_ret_of_pushed (sp := s.sp) ?_ ?_ (answersAll_of_ram ?_ ?_)
  all_goals rw [hparams']
  · simpa [State.pcInRange] using hpc
  · exact hsp.trans hran.sp
  · rw [hregions']
    exact fun x hx => hram x (List.mem_reverse.mp hx)
  · intro x hx
    have hx := List.mem_reverse.mp hx
    exact (hdata x hx).trans (hheld hu x hx (.inl (hram x hx)))

end Sys2Proof.Machine
end

section
/-! PROOFS of the family of 30_encoding.md: that the encoder and the decoder are inverse to each other, and that the words of
R131 are the words of the own-pointer forms and the only ones a Step refuses. -/

namespace Sys2Proof

/-! ## From an instruction to its words and back -/

/-- The family of encoding laws, as one statement over the 97 instructions (R125). -/
theorem encoding_law : ∀ i : Instr, Laws.Encoding.Statement i
  | .nop => Laws.Encoding.nop
  | .movw d r => Laws.Encoding.movw d r
  | .muls d r => Laws.Encoding.muls d r
  | .mulsu d r => Laws.Encoding.mulsu d r
  | .fmul d r => Laws.Encoding.fmul d r
  | .fmuls d r => Laws.Encoding.fmuls d r
  | .fmulsu d r => Laws.Encoding.fmulsu d r
  | .cpc d r => Laws.Encoding.cpc d r
  | .sbc d r => Laws.Encoding.sbc d r
  | .add d r => Laws.Encoding.add d r
  | .cpse d r => Laws.Encoding.cpse d r
  | .cp d r => Laws.Encoding.cp d r
  | .sub d r => Laws.Encoding.sub d r
  | .adc d r => Laws.Encoding.adc d r
  | .and d r => Laws.Encoding.and d r
  | .eor d r => Laws.Encoding.eor d r
  | .or d r => Laws.Encoding.or d r
  | .mov d r => Laws.Encoding.mov d r
  | .cpi d k => Laws.Encoding.cpi d k
  | .sbci d k => Laws.Encoding.sbci d k
  | .subi d k => Laws.Encoding.subi d k
  | .ori d k => Laws.Encoding.ori d k
  | .andi d k => Laws.Encoding.andi d k
  | .lddZ d q => Laws.Encoding.lddZ d q
  | .lddY d q => Laws.Encoding.lddY d q
  | .stdZ q r => Laws.Encoding.stdZ q r
  | .stdY q r => Laws.Encoding.stdY q r
  | .lds d k => Laws.Encoding.lds d k
  | .ldZInc d => Laws.Encoding.ldZInc d
  | .ldZDec d => Laws.Encoding.ldZDec d
  | .lpmZ d => Laws.Encoding.lpmZ d
  | .lpmZInc d => Laws.Encoding.lpmZInc d
  | .elpmZ d => Laws.Encoding.elpmZ d
  | .elpmZInc d => Laws.Encoding.elpmZInc d
  | .ldYInc d => Laws.Encoding.ldYInc d
  | .ldYDec d => Laws.Encoding.ldYDec d
  | .ldX d => Laws.Encoding.ldX d
  | .ldXInc d => Laws.Encoding.ldXInc d
  | .ldXDec d => Laws.Encoding.ldXDec d
  | .pop d => Laws.Encoding.pop d
  | .sts k r => Laws.Encoding.sts k r
  | .stZInc r => Laws.Encoding.stZInc r
  | .stZDec r => Laws.Encoding.stZDec r
  | .xch d => Laws.Encoding.xch d
  | .las d => Laws.Encoding.las d
  | .lac d => Laws.Encoding.lac d
  | .lat d => Laws.Encoding.lat d
  | .stYInc r => Laws.Encoding.stYInc r
  | .stYDec r => Laws.Encoding.stYDec r
  | .stX r => Laws.Encoding.stX r
  | .stXInc r => Laws.Encoding.stXInc r
  | .stXDec r => Laws.Encoding.stXDec r
  | .push r => Laws.Encoding.push r
  | .com d => Laws.Encoding.com d
  | .neg d => Laws.Encoding.neg d
  | .swap d => Laws.Encoding.swap d
  | .inc d => Laws.Encoding.inc d
  | .asr d => Laws.Encoding.asr d
  | .lsr d => Laws.Encoding.lsr d
  | .ror d => Laws.Encoding.ror d
  | .dec d => Laws.Encoding.dec d
  | .bset b => Laws.Encoding.bset b
  | .bclr b => Laws.Encoding.bclr b
  | .ijmp => Laws.Encoding.ijmp
  | .eijmp => Laws.Encoding.eijmp
  | .des k => Laws.Encoding.des k
  | .ret => Laws.Encoding.ret
  | .reti => Laws.Encoding.reti
  | .sleep => Laws.Encoding.sleep
  | .brk => Laws.Encoding.brk
  | .wdr => Laws.Encoding.wdr
  | .lpm => Laws.Encoding.lpm
  | .elpm => Laws.Encoding.elpm
  | .spm => Laws.Encoding.spm
  | .spmZInc => Laws.Encoding.spmZInc
  | .icall => Laws.Encoding.icall
  | .eicall => Laws.Encoding.eicall
  | .jmp k => Laws.Encoding.jmp k
  | .call k => Laws.Encoding.call k
  | .adiw d k => Laws.Encoding.adiw d k
  | .sbiw d k => Laws.Encoding.sbiw d k
  | .cbi a b => Laws.Encoding.cbi a b
  | .sbic a b => Laws.Encoding.sbic a b
  | .sbi a b => Laws.Encoding.sbi a b
  | .sbis a b => Laws.Encoding.sbis a b
  | .mul d r => Laws.Encoding.mul d r
  | .inIo d a => Laws.Encoding.inIo d a
  | .outIo a r => Laws.Encoding.outIo a r
  | .rjmp k => Laws.Encoding.rjmp k
  | .rcall k => Laws.Encoding.rcall k
  | .ldi d k => Laws.Encoding.ldi d k
  | .brbs b k => Laws.Encoding.brbs b k
  | .brbc b k => Laws.Encoding.brbc b k
  | .bld d b => Laws.Encoding.bld d b
  | .bst d b => Laws.Encoding.bst d b
  | .sbrc r b => Laws.Encoding.sbrc r b
  | .sbrs r b => Laws.Encoding.sbrs r b

/-- Settles O1: each instruction's encoding law. -/
theorem wordsOfAnInstructionDecodeToIt : Obligations.WordsOfAnInstructionDecodeToIt := fun i op2 hwf =>
  (encoding_law i hwf).1 op2

/-! ## From a word to its instruction and back -/

/-- A word is the fixed bits of a row that admits it and, in the other bits, its own. -/
theorem Row.or_rest_of_admits {row : Row} {op : Word} (h : row.admits op = true) :
    row.pattern ||| op &&& ~~~row.mask = op := by
  rw [← Row.admits_eq.mp h, ← BitVec.and_or_distrib_left, BitVec.or_not_self, BitVec.and_allOnes]

/-- The fixed bits of a row decide the length of every word it admits: they either conflict with both patterns of R100 or
contain one of them. -/
theorem Row.fixes_length : ∀ row ∈ opcodeTable,
    (isLong row.pattern = false ∧
      (row.pattern ^^^ 0x9000#16) &&& row.mask &&& 0xFC0F#16 ≠ 0#16 ∧
      (row.pattern ^^^ 0x940C#16) &&& row.mask &&& 0xFE0C#16 ≠ 0#16) ∨
    (isLong row.pattern = true ∧ row.mask &&& 0xFC0F#16 = 0xFC0F#16 ∧ row.pattern &&& 0xFC0F#16 = 0x9000#16) ∨
    (isLong row.pattern = true ∧ row.mask &&& 0xFE0C#16 = 0xFE0C#16 ∧ row.pattern &&& 0xFE0C#16 = 0x940C#16) := by
  decide

/-- A word is as long as the row that admits it (R100). -/
theorem isLong_of_admits {row : Row} (hm : row ∈ opcodeTable) {op : Word} (ha : row.admits op = true) :
    isLong op = isLong row.pattern := by
  have hop := Row.admits_eq.mp ha
  rcases Row.fixes_length row hm with ⟨hl, hc⟩ | ⟨hl, hmask, hpattern⟩ | ⟨hl, hmask, hpattern⟩
  · rw [hl, isLong_false hop hc]
  · rw [hl, isLong_direct hop hmask hpattern]
  · rw [hl, isLong_jump hop hmask hpattern]

/-- What a row builds from a word is well formed, and its words are the row's fixed bits with the rest of the word, then the
second word where the row is long. -/
def Row.PlacesBack (row : Row) : Prop := ∀ op op2 : Word,
  (row.build op op2).wellFormed = true ∧
  encode (row.build op op2) =
    (row.pattern ||| op &&& ~~~row.mask) :: if isLong row.pattern then [op2] else []

/-- Every field is placed back where it was read, and between them the fields of a row are all the bits it leaves open
(R101..R121). Row by row: the words of what it builds, and then the bits of each field as they were read. -/
theorem Row.placesBack_of_mem : ∀ row ∈ opcodeTable, row.PlacesBack := by
  simp only [opcodeTable, rows1, rows2, rows3, rows4, rows5, rows6, rows7, List.forall_mem_append, List.forall_mem_cons,
    List.not_mem_nil, false_imp_iff, implies_true, and_true, Row.PlacesBack]
  dsimp only [Instr.wellFormed, encode]
  simp [isLong, d4_isShort, r4_isShort, d3_isTiny, r3_isTiny, dw_isEven, rw_isEven, dp_isPairTiny, putD5_d5, putR5_r5,
    putD4_d4, putR4_r4, putD3_d3, putR3_r3, putDw_dw, putRw_rw, putDp_dp, putK8_k8, putK6_k6, putQ6_q6, putA5_a5, putA6_a6,
    putK12_k12, putK7_k7, putB3_b3, putS3_s3, putK4_k4, putK22_k22, low_k22, BitVec.or_assoc,
    ← BitVec.and_or_distrib_left]

/-- Settles O2: the row that admits the word places its fields back. -/
theorem decodedInstructionEncodesToItsWords : Obligations.DecodedInstructionEncodesToItsWords := by
  intro op op2 i hdecode
  obtain ⟨row, hfind, rfl⟩ := Option.map_eq_some_iff.mp hdecode
  have hm := List.mem_of_find?_eq_some hfind
  have ha : row.admits op = true := List.find?_some (p := fun row : Row => row.admits op) hfind
  obtain ⟨hwf, hwords⟩ := Row.placesBack_of_mem row hm op op2
  refine ⟨hwf, ?_⟩
  rw [hwords, Row.or_rest_of_admits ha, isLong_of_admits hm ha]
  cases isLong row.pattern <;> rfl

/-- Settles O3: the decoder on each word. -/
theorem sampleWordsDecodeAsTheTableSays : Obligations.SampleWordsDecodeAsTheTableSays := by
  unfold Obligations.SampleWordsDecodeAsTheTableSays
  decide

end Sys2Proof

namespace Sys2Proof.Machine

/-! ## The own-pointer forms and their words (R131) -/

/-- The instructions of the 28 words, in the order of `ownPointerWords`. -/
def ownPointerForms : List Instr :=
  [ .ldXInc 26, .ldXInc 27, .ldXDec 26, .ldXDec 27, .stXInc 26, .stXInc 27, .stXDec 26, .stXDec 27,
    .ldYInc 28, .ldYInc 29, .ldYDec 28, .ldYDec 29, .stYInc 28, .stYInc 29, .stYDec 28, .stYDec 29,
    .ldZInc 30, .ldZInc 31, .ldZDec 30, .ldZDec 31, .stZInc 30, .stZInc 31, .stZDec 30, .stZDec 31,
    .lpmZInc 30, .lpmZInc 31, .elpmZInc 30, .elpmZInc 31 ]

theorem map_opWord_ownPointerForms : ownPointerForms.map opWord = ownPointerWords := by decide

theorem Ptr.isByte_iff {p : Ptr} {r : Reg} : p.isByte r = true ↔ r = p.low ∨ r = p.low + 1 := by
  simp only [Ptr.isByte, Bool.or_eq_true, decide_eq_true_eq]

/-- An own-pointer form is the instruction of one of the 28 words. -/
theorem mem_ownPointerForms_of_ownForm {i : Instr} (h : ownForm i = true) : i ∈ ownPointerForms := by
  cases i with
  | ldXInc r | ldXDec r | stXInc r | stXDec r | ldYInc r | ldYDec r | stYInc r | stYDec r | ldZInc r | ldZDec r | stZInc r
  | stZDec r | lpmZInc r | elpmZInc r => obtain rfl | rfl := Ptr.isByte_iff.mp h <;> decide
  | _ => exact absurd h Bool.false_ne_true

/-- The word of an own-pointer form is one of the 28. -/
theorem opWord_mem_of_ownForm {i : Instr} (h : ownForm i = true) : opWord i ∈ ownPointerWords :=
  map_opWord_ownPointerForms ▸ List.mem_map_of_mem (mem_ownPointerForms_of_ownForm h)

/-- Each of the 28 words is one word long and decodes to an own-pointer form. -/
theorem ownPointerWords_decode {op : Word} (h : op ∈ ownPointerWords) :
    isLong op = false ∧ ∃ i, decode op 0#16 = some i ∧ ownForm i = true := by
  have hforms : ∀ i ∈ ownPointerForms, ownForm i = true ∧ i.wellFormed = true ∧ (encode i).getD 1 0#16 = 0#16 := by decide
  have hlong : ∀ op ∈ ownPointerWords, isLong op = false := by simp [ownPointerWords, isLong]
  have hmap := h
  rw [← map_opWord_ownPointerForms] at hmap
  obtain ⟨i, hi, rfl⟩ := List.mem_map.mp hmap
  obtain ⟨hown, hwf, hsecond⟩ := hforms i hi
  have hdecode := wordsOfAnInstructionDecodeToIt i 0#16 hwf
  rw [hsecond] at hdecode
  exact ⟨hlong _ h, i, hdecode, hown⟩

/-- A word that decodes to an instruction is its first word. -/
theorem opWord_of_decode {op op2 : Word} {i : Instr} (h : decode op op2 = some i) : opWord i = op := by
  rw [opWord, (decodedInstructionEncodesToItsWords op op2 i h).2]
  cases isLong op <;> rfl

/-- Settles O48: each of the fourteen forms is an own-pointer form, which is refused and has one of the 28 words. -/
theorem ownPointerFormsAreRefused : Obligations.OwnPointerFormsAreRefused := by
  intro r s i h
  have hown : ownForm i = true := by
    rcases h with ⟨hr, hi⟩ | ⟨hr, hi⟩ | ⟨hr, hi⟩
    · have hx : Ptr.x.isByte r = true := by rcases hr with rfl | rfl <;> rfl
      rcases hi with rfl | rfl | rfl | rfl <;> exact hx
    · have hy : Ptr.y.isByte r = true := by rcases hr with rfl | rfl <;> rfl
      rcases hi with rfl | rfl | rfl | rfl <;> exact hy
    · have hz : Ptr.z.isByte r = true := by rcases hr with rfl | rfl <;> rfl
      rcases hi with rfl | rfl | rfl | rfl | rfl | rfl <;> exact hz
  exact ⟨exec_own i s hown, opWord_mem_of_ownForm hown⟩

/-! ## Which Steps are refused -/

/-- A fetch ends the Step where what follows it does, which may use that its first word is the one the backend answers. -/
theorem ends_fetchInstr_answered {s : State} {k : Word → Word → State → Outcome}
    (hk : ∀ op, AnswersWord s (fetchAt s) op → ∀ op2 u, Ends (k op op2 u)) : Ends (fetchInstr s k) := by
  cases hw : (readProgramMemory (fetchAt s) s).1 with
  | none =>
    rw [fetchInstr, fetchWord_none hw]
    exact ends_next _
  | some op =>
    cases hl : isLong op with
    | false =>
      rw [fetchInstr_short hw hl]
      exact hk op hw _ _
    | true =>
      rw [fetchInstr_long hw hl]
      exact ends_fetchWord (hk op hw)

/-- A Step that fetches none of the 28 words ends in a next state (R131, R731). -/
theorem step_ends {s : State} (h : s.asleep = false → ∀ op ∈ ownPointerWords, ¬AnswersWord s (fetchAt s) op) :
    Ends (step s) := by
  cases hs : s.asleep with
  | true =>
    rw [step_asleep hs]
    exact ends_next _
  | false =>
    rw [step_awake hs]
    refine ends_fetchInstr_answered fun op hop op2 u => ?_
    rw [answersWord_beginStep] at hop
    cases hd : decode op op2 with
    | none => exact ends_unknownWord op u
    | some i =>
      refine exec_ends i u (Bool.eq_false_iff.mpr fun hown => h hs op ?_ hop)
      rw [← opWord_of_decode hd]
      exact opWord_mem_of_ownForm hown

/-- A Step of an awake core that fetches one of the 28 words is refused (R131, R731). -/
theorem step_ownPointer {s : State} {op : Word} (hs : s.asleep = false) (hop : op ∈ ownPointerWords)
    (hw : AnswersWord s (fetchAt s) op) : step s = .refused (.ownPointer (fetched (begun s)).pc0 op) := by
  obtain ⟨hl, i, hd, hown⟩ := ownPointerWords_decode hop
  rw [step_short hs ((answersWord_beginStep s op).mpr hw) hl hd, exec_own i _ hown, opWord_of_decode hd]

/-- The pc a refusal carries is the one the word was fetched from (R15, R131). -/
theorem fetched_pc0 {s : State} (h : s.pcInRange = true) : (fetched s).pc0 = s.pc :=
  pc0_after_fetch h (called_readProgramMemory (fetchAt s) s)

/-- A Step ends in a next state, or it fetches one of the 28 words, awake, and is refused. -/
theorem step_ends_or_ownPointer (s : State) : Ends (step s) ∨ s.asleep = false ∧ ∃ op ∈ ownPointerWords,
    AnswersWord s (fetchAt s) op ∧ step s = .refused (.ownPointer (fetched (begun s)).pc0 op) := by
  by_cases h : s.asleep = false ∧ ∃ op ∈ ownPointerWords, AnswersWord s (fetchAt s) op
  · obtain ⟨hs, op, hop, hw⟩ := h
    exact .inr ⟨hs, op, hop, hw, step_ownPointer hs hop hw⟩
  · exact .inl (step_ends fun hs op hop hw => h ⟨hs, op, hop, hw⟩)

/-- Settles O11, by the two ways a Step can go. -/
theorem onlyTheTwentyEightWordsAreRefused : Obligations.OnlyTheTwentyEightWordsAreRefused := by
  refine ⟨rfl, by decide, fun s f hfault => ?_, fun s r hpc => ⟨fun hrefused => ?_, ?_⟩⟩
  · obtain ⟨t, ht⟩ | ⟨-, op, -, -, ht⟩ := step_ends_or_ownPointer s <;> cases hfault.symm.trans ht
  · obtain ⟨t, ht⟩ | ⟨hs, op, hop, hw, ht⟩ := step_ends_or_ownPointer s
    · cases hrefused.symm.trans ht
    · rw [fetched_pc0 (s := begun s) hpc] at ht
      cases hrefused.symm.trans ht
      exact ⟨hs, op, hop, hw, rfl⟩
  · rintro ⟨hs, op, hop, hw, rfl⟩
    rw [step_ownPointer hs hop hw, fetched_pc0 (s := begun s) hpc]
    rfl

end Sys2Proof.Machine
end

section
/-! PROOFS of the family of 41_arith_logic.md: the results and the flags of the arithmetic, logic, shift and multiply
instructions, and what the carry, overflow and sign flags say of the numbers. -/

namespace Sys2Proof.Machine

/-! ## The ends of the arithmetic and logic instructions -/

/-- The end of a one-cycle instruction that writes Rd and SREG. -/
theorem writeBoth_ends (d : Reg) (res : Byte) (f : Sreg) (s : State) :
    ∃ t, writeBoth d res f s = .next t ∧ OnlyRegsFlags 1 s t ∧ t.reg d = res ∧ OthersKept d s t ∧ t.sreg = f :=
  ⟨_, rfl, rfl, s.reg_setReg_self d res, fun _ hj => s.reg_setReg_of_ne hj res, rfl⟩

/-- The low byte of a pair after a write of the pair (R32). -/
theorem State.reg_setPair_low (s : State) (d : Reg) (w : Word) : (s.setPair d w).reg d = loByte w := by
  have hne : d ≠ d + 1 := by revert d; decide
  simp only [State.reg_setPair, hne, if_true, if_false]

/-- The high byte of a pair after a write of the pair (R32). -/
theorem State.reg_setPair_high (s : State) (d : Reg) (w : Word) : (s.setPair d w).reg (d + 1) = hiByte w := by
  simp only [State.reg_setPair, if_true]

/-- The registers outside a pair after a write of the pair. -/
theorem State.reg_setPair_outside {s : State} {d j : Reg} (hlow : j ≠ d) (hhigh : j ≠ d + 1) (w : Word) :
    (s.setPair d w).reg j = s.reg j := by
  simp only [State.reg_setPair, hlow, hhigh, if_false]

/-- The end of a two-cycle instruction that writes a pair and SREG. -/
theorem writePairFlags_ends (d : Reg) (res : Word) (f : Sreg) (s : State) :
    ∃ t, writePairFlags d res f s = .next t ∧ OnlyRegsFlags 2 s t ∧ t.reg d = res.extractLsb' 0 8 ∧
      t.reg (d + 1) = res.extractLsb' 8 8 ∧ OutsidePairKept d s t ∧ t.sreg = f :=
  ⟨_, rfl, rfl, s.reg_setPair_low d res, s.reg_setPair_high d res,
    fun _ hlow hhigh => State.reg_setPair_outside hlow hhigh res, rfl⟩

/-- The end of a one-cycle instruction that writes SREG alone. -/
theorem writeFlags_ends (f : Sreg) (s : State) :
    ∃ t, writeFlags f s = .next t ∧ OnlyFlags 1 s t ∧ t.sreg = f := ⟨_, rfl, rfl, rfl⟩

/-- The carry flag as a byte, in the model's words and in the statements'. -/
theorem carryByte_eq_carry (s : State) : carryByte s = carry s := by
  unfold carryByte carry
  cases s.sreg.c <;> rfl

/-! ## The flag computations, in the words of the statements -/

/-- `NZS` writes N, Z, V and S and keeps the other flags (R200). -/
theorem nzs_spec (res : Byte) (v : Bool) (f : Sreg) :
    FlagsNVS res v (nzs res v f) ∧ FlagZ res (nzs res v f) ∧ KeptTI f (nzs res v f) ∧
      (nzs res v f).c = f.c ∧ (nzs res v f).h = f.h := ⟨⟨rfl, rfl, rfl⟩, rfl, ⟨rfl, rfl⟩, rfl, rfl⟩

/-- COM's flags are those of `NZS` but for C (R222). -/
theorem comFlags_spec (res : Byte) (f : Sreg) :
    FlagsNVS res false (comFlags res f) ∧ FlagZ res (comFlags res f) ∧ KeptTI f (comFlags res f) ∧
      (comFlags res f).c = true ∧ (comFlags res f).h = f.h := ⟨⟨rfl, rfl, rfl⟩, rfl, ⟨rfl, rfl⟩, rfl, rfl⟩

/-- The flags of an addition (R201). -/
theorem addFlags_spec (rd rr res : Byte) (f : Sreg) :
    FlagsAdd rd rr res (addFlags rd rr res f) ∧ FlagZ res (addFlags rd rr res f) ∧ KeptTI f (addFlags rd rr res f) :=
  ⟨⟨rfl, rfl, rfl, rfl, rfl⟩, rfl, rfl, rfl⟩

/-- The flags of a subtraction (R202). -/
theorem subFlags_spec (rd rr res : Byte) (f : Sreg) :
    FlagsSub rd rr res (subFlags rd rr res f) ∧ FlagZ res (subFlags rd rr res f) ∧ KeptTI f (subFlags rd rr res f) :=
  ⟨⟨rfl, rfl, rfl, rfl, rfl⟩, rfl, rfl, rfl⟩

/-- The flags of a subtraction with borrow: those of a subtraction but for Z (R204). -/
theorem sbcFlags_spec (rd rr res : Byte) (s : State) :
    FlagsSub rd rr res (sbcFlags s.params.sbcZSticky rd rr res s.sreg) ∧
      FlagZSbc s res (sbcFlags s.params.sbcZSticky rd rr res s.sreg) ∧
      KeptTI s.sreg (sbcFlags s.params.sbcZSticky rd rr res s.sreg) := by
  refine ⟨⟨rfl, rfl, rfl, rfl, rfl⟩, ?_, rfl, rfl⟩
  simp only [FlagZSbc, sbcFlags, sbcZ]
  cases s.params.sbcZSticky <;> rfl

/-- The flags of a shift whose result has the top bit `top` (R223..R225). -/
theorem shiftFlags_spec {rd res : Byte} {top : Bool} (htop : res.getLsbD 7 = top) (f : Sreg) :
    (shiftFlags rd res f).c = rd.getLsbD 0 ∧ FlagsNVS res (xor top (rd.getLsbD 0)) (shiftFlags rd res f) ∧
      FlagZ res (shiftFlags rd res f) ∧ KeptTI f (shiftFlags rd res f) ∧ (shiftFlags rd res f).h = f.h := by
  subst htop
  exact ⟨rfl, ⟨rfl, rfl, rfl⟩, rfl, ⟨rfl, rfl⟩, rfl⟩

/-! ## Addition, subtraction and compares -/

section

variable {i : Instr} {d : Reg} {rr res : Byte} {s : State}

/-- An instruction that ends with a sum and its flags. -/
theorem exec_addition (h : exec i s = writeBoth d res (addFlags (s.reg d) rr res s.sreg) s) :
    ∃ t v, exec i s = .next t ∧ OnlyRegsFlags 1 s t ∧ v = res ∧ t.reg d = v ∧ OthersKept d s t ∧
      FlagsAdd (s.reg d) rr v t.sreg ∧ FlagZ v t.sreg ∧ KeptTI s.sreg t.sreg := by
  obtain ⟨t, hend, hframe, hdest, hothers, hsreg⟩ := writeBoth_ends d res (addFlags (s.reg d) rr res s.sreg) s
  exact ⟨t, res, h.trans hend, hframe, rfl, hdest, hothers, hsreg ▸ addFlags_spec _ _ _ _⟩

/-- An instruction that ends with a difference and its flags. -/
theorem exec_subtraction {rd : Byte} (h : exec i s = writeBoth d res (subFlags rd rr res s.sreg) s) :
    ∃ t v, exec i s = .next t ∧ OnlyRegsFlags 1 s t ∧ v = res ∧ t.reg d = v ∧ OthersKept d s t ∧
      FlagsSub rd rr v t.sreg ∧ FlagZ v t.sreg ∧ KeptTI s.sreg t.sreg := by
  obtain ⟨t, hend, hframe, hdest, hothers, hsreg⟩ := writeBoth_ends d res (subFlags rd rr res s.sreg) s
  exact ⟨t, res, h.trans hend, hframe, rfl, hdest, hothers, hsreg ▸ subFlags_spec _ _ _ _⟩

/-- An instruction that ends with a difference with borrow and its flags. -/
theorem exec_borrowSubtraction
    (h : exec i s = writeBoth d res (sbcFlags s.params.sbcZSticky (s.reg d) rr res s.sreg) s) :
    ∃ t v, exec i s = .next t ∧ OnlyRegsFlags 1 s t ∧ v = res ∧ t.reg d = v ∧ OthersKept d s t ∧
      FlagsSub (s.reg d) rr v t.sreg ∧ FlagZSbc s v t.sreg ∧ KeptTI s.sreg t.sreg := by
  obtain ⟨t, hend, hframe, hdest, hothers, hsreg⟩ :=
    writeBoth_ends d res (sbcFlags s.params.sbcZSticky (s.reg d) rr res s.sreg) s
  exact ⟨t, res, h.trans hend, hframe, rfl, hdest, hothers, hsreg ▸ sbcFlags_spec _ _ _ _⟩

/-- An instruction that ends with the flags of a difference. -/
theorem exec_compare {rd : Byte} (h : exec i s = writeFlags (subFlags rd rr res s.sreg) s) :
    ∃ t v, exec i s = .next t ∧ OnlyFlags 1 s t ∧ v = res ∧
      FlagsSub rd rr v t.sreg ∧ FlagZ v t.sreg ∧ KeptTI s.sreg t.sreg := by
  obtain ⟨t, hend, hframe, hsreg⟩ := writeFlags_ends (subFlags rd rr res s.sreg) s
  exact ⟨t, res, h.trans hend, hframe, rfl, hsreg ▸ subFlags_spec _ _ _ _⟩

/-- An instruction that ends with the flags of a difference with borrow. -/
theorem exec_borrowCompare
    (h : exec i s = writeFlags (sbcFlags s.params.sbcZSticky (s.reg d) rr res s.sreg) s) :
    ∃ t v, exec i s = .next t ∧ OnlyFlags 1 s t ∧ v = res ∧
      FlagsSub (s.reg d) rr v t.sreg ∧ FlagZSbc s v t.sreg ∧ KeptTI s.sreg t.sreg := by
  obtain ⟨t, hend, hframe, hsreg⟩ := writeFlags_ends (sbcFlags s.params.sbcZSticky (s.reg d) rr res s.sreg) s
  exact ⟨t, res, h.trans hend, hframe, rfl, hsreg ▸ sbcFlags_spec _ _ _ _⟩

/-- An instruction that ends with a result and its N, Z, V and S. -/
theorem exec_nzs {v : Bool} (h : exec i s = writeBoth d res (nzs res v s.sreg) s) :
    ∃ t, exec i s = .next t ∧ OnlyRegsFlags 1 s t ∧ t.reg d = res ∧ OthersKept d s t ∧ FlagsNVS res v t.sreg ∧
      FlagZ res t.sreg ∧ KeptTI s.sreg t.sreg ∧ t.sreg.c = s.sreg.c ∧ t.sreg.h = s.sreg.h := by
  obtain ⟨t, hend, hframe, hdest, hothers, hsreg⟩ := writeBoth_ends d res (nzs res v s.sreg) s
  exact ⟨t, h.trans hend, hframe, hdest, hothers, hsreg ▸ nzs_spec _ _ _⟩

end

/-- Settles O24: ADD and ADC end with a sum and its flags. -/
theorem addAndAdcAddAndSetFlags : Obligations.AddAndAdcAddAndSetFlags := by
  refine ⟨encodes_row 9 (by decide), encodes_row 13 (by decide), fun d r s => ⟨exec_addition rfl, exec_addition ?_⟩⟩
  rw [← carryByte_eq_carry]
  rfl

/-- Settles O25: SUB and SUBI end with a difference and its flags. -/
theorem subAndSubiSubtractAndSetFlags : Obligations.SubAndSubiSubtractAndSetFlags :=
  ⟨encodes_row 12 (by decide), encodes_row 20 (by decide), fun _ _ =>
    ⟨fun _ => exec_subtraction rfl, fun _ => exec_subtraction rfl⟩⟩

/-- Settles O26: SBC and SBCI end with a difference with borrow and its flags. -/
theorem sbcAndSbciSubtractWithBorrow : Obligations.SbcAndSbciSubtractWithBorrow := by
  refine ⟨encodes_row 8 (by decide), encodes_row 19 (by decide), fun d s => ?_⟩
  rw [← carryByte_eq_carry]
  exact ⟨fun _ => exec_borrowSubtraction rfl, fun _ => exec_borrowSubtraction rfl⟩

/-- Settles O27: the compares end with the flags of the subtraction each makes. -/
theorem comparesSetFlagsAndWriteNoRegister : Obligations.ComparesSetFlagsAndWriteNoRegister := by
  refine ⟨encodes_row 11 (by decide), encodes_row 7 (by decide), encodes_row 18 (by decide), fun d s => ?_⟩
  rw [← carryByte_eq_carry]
  exact ⟨fun _ => exec_compare rfl, fun _ => exec_borrowCompare rfl, fun _ => exec_compare rfl⟩

/-! ## The flags of a sum and of a difference, as numbers -/

/-- Bit 3 of a byte says which half of the range of its low nibble that is in. -/
theorem getLsbD_three (b : Byte) : b.getLsbD 3 = decide (8 ≤ b.toNat % 16) := by
  rw [BitVec.getLsbD, Nat.testBit_eq_decide_div_mod_eq, decide_eq_decide]
  omega

/-- Bit 7 of a byte says which half of its range it is in. -/
theorem getLsbD_seven (b : Byte) : b.getLsbD 7 = decide (128 ≤ b.toNat) := BitVec.msb_eq_decide b

/-- Bit 15 of a word says which half of its range it is in. -/
theorem getLsbD_fifteen (w : Word) : w.getLsbD 15 = decide (32768 ≤ w.toNat) := BitVec.msb_eq_decide w

/-- A xor of two decided facts, as one decided fact. -/
theorem decide_xor_decide (p q : Prop) [Decidable p] [Decidable q] :
    xor (decide p) (decide q) = decide (¬(p ↔ q)) := by
  by_cases hp : p <;> by_cases hq : q <;> simp [hp, hq]

/-- What R201 says of the numbers, for a sum with the carry `c`. -/
theorem FlagsAdd.means {x y res : Byte} {c : Bool} {f : Sreg} (hf : FlagsAdd x y res f)
    (hres : res.toNat = (x.toNat + y.toNat + c.toNat) % 256) :
    f.h = decide (16 ≤ x.toNat % 16 + y.toNat % 16 + c.toNat) ∧
    f.c = decide (256 ≤ x.toNat + y.toNat + c.toNat) ∧
    f.v = decide (x.toInt + y.toInt + (c.toNat : Int) < -128 ∨ 127 < x.toInt + y.toInt + (c.toNat : Int)) ∧
    f.s = decide (x.toInt + y.toInt + (c.toNat : Int) < 0) := by
  obtain ⟨hh, hc, -, hv, hs⟩ := hf
  have hx := x.isLt
  have hy := y.isLt
  have hcarry := c.toNat_le
  rw [hh, hc, hv, hs]
  simp only [getLsbD_three, getLsbD_seven, ← Bool.decide_and, ← Bool.decide_or, ← decide_not, decide_xor_decide,
    decide_eq_decide, BitVec.toInt_eq_toNat_cond]
  refine ⟨?_, ?_, ?_, ?_⟩ <;> omega

/-- What R202 says of the numbers, for a difference with the borrow `c`. -/
theorem FlagsSub.means {x y res : Byte} {c : Bool} {f : Sreg} (hf : FlagsSub x y res f)
    (hres : x.toNat = (res.toNat + y.toNat + c.toNat) % 256) :
    f.h = decide (x.toNat % 16 < y.toNat % 16 + c.toNat) ∧
    f.c = decide (x.toNat < y.toNat + c.toNat) ∧
    f.v = decide (x.toInt - y.toInt - (c.toNat : Int) < -128 ∨ 127 < x.toInt - y.toInt - (c.toNat : Int)) ∧
    f.s = decide (x.toInt - y.toInt - (c.toNat : Int) < 0) := by
  obtain ⟨hh, hc, -, hv, hs⟩ := hf
  have hy := y.isLt
  have hr := res.isLt
  have hcarry := c.toNat_le
  rw [hh, hc, hv, hs]
  simp only [getLsbD_three, getLsbD_seven, ← Bool.decide_and, ← Bool.decide_or, ← decide_not, decide_xor_decide,
    decide_eq_decide, BitVec.toInt_eq_toNat_cond]
  refine ⟨?_, ?_, ?_, ?_⟩ <;> omega

/-- The carry byte as a number. -/
theorem carry_toNat (s : State) : (carry s).toNat = s.sreg.c.toNat := by
  unfold carry
  cases s.sreg.c <;> rfl

/-- The sum of R206 as a number. -/
theorem toNat_add_carry (x y : Byte) (s : State) :
    (x + y + carry s).toNat = (x.toNat + y.toNat + s.sreg.c.toNat) % 256 := by
  rw [BitVec.toNat_add, BitVec.toNat_add, carry_toNat]
  omega

/-- A difference, as the number that the subtrahend is added to. -/
theorem toNat_of_sub (x y : Byte) : x.toNat = ((x - y).toNat + y.toNat) % 256 := by
  have hx := x.isLt
  have hy := y.isLt
  rw [BitVec.toNat_sub]
  omega

/-- The difference of R209, as the number that the subtrahend and the borrow are added to. -/
theorem toNat_of_sub_carry (x y : Byte) (s : State) :
    x.toNat = ((x - y - carry s).toNat + y.toNat + s.sreg.c.toNat) % 256 := by
  have hdiff := toNat_of_sub x y
  have hborrow := toNat_of_sub (x - y) (carry s)
  rw [carry_toNat] at hborrow
  omega

/-- Settles O34: the flags ADC, SBC and CP leave, as numbers; CP's are those of a borrow of 0. -/
theorem byteFlagsMeanCarryBorrowOverflow : Obligations.ByteFlagsMeanCarryBorrowOverflow := by
  refine fun d r s => ⟨?_, ?_, ?_⟩
  · obtain ⟨-, -, hsteps⟩ := addAndAdcAddAndSetFlags
    obtain ⟨-, t, -, hexec, -, rfl, -, -, hflags, -⟩ := hsteps d r s
    exact ⟨t, hexec, hflags.means (toNat_add_carry _ _ s)⟩
  · obtain ⟨-, -, hsteps⟩ := sbcAndSbciSubtractWithBorrow
    obtain ⟨t, -, hexec, -, rfl, -, -, hflags, -⟩ := (hsteps d s).1 r
    exact ⟨t, hexec, hflags.means (toNat_of_sub_carry _ _ s)⟩
  · obtain ⟨-, -, -, hsteps⟩ := comparesSetFlagsAndWriteNoRegister
    obtain ⟨t, -, hexec, -, rfl, hflags, hz, -⟩ := (hsteps d s).1 r
    obtain ⟨-, hc, -, hs⟩ := hflags.means (c := false) (toNat_of_sub _ _)
    refine ⟨t, hexec, hc, ?_, ?_⟩
    · rw [hz, decide_eq_decide]
      exact sub_eq_zero
    · rw [hs, decide_eq_decide, Bool.toNat_false]
      omega

/-! ## NEG, INC and DEC -/

/-- The reduced forms of H, V and C for a subtraction from 0 (R214). -/
theorem FlagsSub.of_zero {x res : Byte} {f : Sreg} (hres : res = 0#8 - x) (hf : FlagsSub 0#8 x res f) :
    f.h = (x.getLsbD 3 || res.getLsbD 3) ∧ f.v = decide (res = 0x80#8) ∧ f.c = decide (res ≠ 0#8) := by
  have hsum : (0#8).toNat = (res.toNat + x.toNat) % 256 := hres ▸ toNat_of_sub 0#8 x
  obtain ⟨-, hc, hv, -⟩ := hf.means (c := false) hsum
  have hx := x.isLt
  have hr := res.isLt
  refine ⟨?_, ?_, ?_⟩
  · rw [hf.1]
    cases x.getLsbD 3 <;> cases res.getLsbD 3 <;> rfl
  · rw [hv, decide_eq_decide, BitVec.toInt_eq_toNat_cond x, ← BitVec.toNat_inj]
    simp only [BitVec.toInt_zero, BitVec.toNat_ofNat, Bool.toNat_false] at hsum ⊢
    omega
  · rw [hc, decide_eq_decide, ne_eq, ← BitVec.toNat_inj]
    simp only [BitVec.toNat_ofNat, Bool.toNat_false] at hsum ⊢
    omega

/-- Settles O28: NEG is a subtraction from 0; INC and DEC write N, Z, V and S alone. -/
theorem negIncDecResultsAndFlags : Obligations.NegIncDecResultsAndFlags := by
  refine ⟨encodes_row 54 (by decide), encodes_row 56 (by decide), encodes_row 60 (by decide), fun d s => ⟨?_, ?_, ?_⟩⟩
  · obtain ⟨t, res, hexec, hframe, hres, hdest, hothers, hflags, hz, hti⟩ :=
      exec_subtraction (show exec (.neg d) s = writeBoth d _ (subFlags 0#8 (s.reg d) (0#8 - s.reg d) s.sreg) s from rfl)
    exact ⟨t, res, hexec, hframe, hres, hdest, hothers, hflags, hz, hti, hflags.of_zero hres⟩
  · obtain ⟨t, hexec, hframe, hrest⟩ := exec_nzs (show exec (.inc d) s = writeBoth d (s.reg d + 1#8) _ s from rfl)
    exact ⟨t, _, hexec, hframe, rfl, hrest⟩
  · obtain ⟨t, hexec, hframe, hrest⟩ := exec_nzs (show exec (.dec d) s = writeBoth d (s.reg d - 1#8) _ s from rfl)
    exact ⟨t, _, hexec, hframe, rfl, hrest⟩

/-! ## Logic -/

/-- Settles O29: the logic instructions write N, Z, V and S alone, COM C besides. -/
theorem logicResultsAndFlags : Obligations.LogicResultsAndFlags := by
  refine ⟨encodes_row 14 (by decide), encodes_row 22 (by decide), encodes_row 16 (by decide), encodes_row 21 (by decide),
    encodes_row 15 (by decide), encodes_row 53 (by decide), fun d r k s => ⟨?_, ?_⟩⟩
  · rintro i res (⟨rfl, rfl⟩ | ⟨rfl, rfl⟩ | ⟨rfl, rfl⟩ | ⟨rfl, rfl⟩ | ⟨rfl, rfl⟩) <;> exact exec_nzs rfl
  · obtain ⟨t, hend, hframe, hdest, hothers, hsreg⟩ :=
      writeBoth_ends d (0xFF#8 - s.reg d) (comFlags (0xFF#8 - s.reg d) s.sreg) s
    exact ⟨t, _, hend, hframe, rfl, hdest, hothers, hsreg ▸ comFlags_spec _ _⟩

/-! ## Shifts and SWAP -/

/-- Every bit of a byte shifted down by one. -/
theorem getLsbD_shiftDown (x : Byte) (k : Nat) : (x >>> 1).getLsbD k = x.getLsbD (k + 1) := by
  rw [BitVec.getLsbD_ushiftRight, Nat.add_comm]

/-- LSR, ASR and ROR end with a result that is Rd moved down by one below the bit `top` (R223..R225). -/
theorem exec_shift {d : Reg} {i : Instr} {top : Bool} {s : State}
    (h : (i = .lsr d ∧ top = false) ∨ (i = .asr d ∧ top = (s.reg d).getLsbD 7) ∨ (i = .ror d ∧ top = s.sreg.c)) :
    ∃ res, exec i s = writeBoth d res (shiftFlags (s.reg d) res s.sreg) s ∧ res.getLsbD 7 = top ∧
      ∀ k, k < 7 → res.getLsbD k = (s.reg d).getLsbD (k + 1) := by
  have hbit8 : (s.reg d).getLsbD 8 = false := BitVec.getLsbD_of_ge _ 8 (by decide)
  rcases h with ⟨rfl, rfl⟩ | ⟨rfl, rfl⟩ | ⟨rfl, rfl⟩
  · refine ⟨_, rfl, ?_, fun k _ => getLsbD_shiftDown _ k⟩
    rw [getLsbD_shiftDown, hbit8]
  · refine ⟨_, rfl, ?_, fun k hk => ?_⟩
    · rw [BitVec.getLsbD_or, BitVec.getLsbD_and, getLsbD_shiftDown, hbit8]
      simp
    · have hmask : ∀ j < 7, (0x80#8).getLsbD j = false := by decide
      rw [BitVec.getLsbD_or, BitVec.getLsbD_and, getLsbD_shiftDown, hmask k hk, Bool.and_false, Bool.or_false]
  · refine ⟨_, rfl, ?_, fun k hk => ?_⟩
    · rw [BitVec.getLsbD_or, BitVec.getLsbD_shiftLeft, getLsbD_shiftDown, hbit8]
      simp [carryByte]
    · rw [BitVec.getLsbD_or, BitVec.getLsbD_shiftLeft, getLsbD_shiftDown]
      simp [hk]

/-- Each nibble of a byte whose nibbles are exchanged. -/
theorem getLsbD_swap (x : Byte) {k : Nat} (hk : k < 4) :
    (x.extractLsb' 0 4 ++ x.extractLsb' 4 4).getLsbD k = x.getLsbD (k + 4) ∧
    (x.extractLsb' 0 4 ++ x.extractLsb' 4 4).getLsbD (k + 4) = x.getLsbD k :=
  ⟨BitVec.getLsbD_append.trans (by simp [hk, Nat.add_comm 4]), BitVec.getLsbD_append.trans (by simp [hk])⟩

/-- Settles O30: the three shifts by their common end, and SWAP. -/
theorem shiftsAndSwapResultsAndFlags : Obligations.ShiftsAndSwapResultsAndFlags := by
  refine ⟨encodes_row 58 (by decide), encodes_row 57 (by decide), encodes_row 59 (by decide), encodes_row 55 (by decide),
    fun d s => ⟨fun i top hi => ?_, ?_⟩⟩
  · obtain ⟨res, hexec, htop, hbits⟩ := exec_shift hi
    obtain ⟨t, hend, hframe, hdest, hothers, hsreg⟩ := writeBoth_ends d res (shiftFlags (s.reg d) res s.sreg) s
    exact ⟨t, res, hexec.trans hend, hframe, hdest, hothers, htop, hbits, hsreg ▸ shiftFlags_spec htop _⟩
  · refine ⟨_, rfl, rfl, fun _ hj => s.reg_setReg_of_ne hj _, fun k hk => ?_⟩
    have hdest := s.reg_setReg_self d ((s.reg d).extractLsb' 0 4 ++ (s.reg d).extractLsb' 4 4)
    have hbits := getLsbD_swap (s.reg d) hk
    rwa [← hdest] at hbits

/-! ## ADIW and SBIW -/

/-- Settles O31: both end with the pair and the flags of its result. -/
theorem adiwAndSbiwPairsAndFlags : Obligations.AdiwAndSbiwPairsAndFlags := by
  refine ⟨encodes_row 79 (by decide), encodes_row 80 (by decide), fun d k s => ⟨?_, ?_⟩⟩
  · obtain ⟨t, hend, hframe, hlow, hhigh, houtside, hsreg⟩ := writePairFlags_ends d (s.pair d + k.zeroExtend 16)
      (adiwFlags (bitOf (s.reg (d + 1)) 7) (s.pair d + k.zeroExtend 16) s.sreg) s
    refine ⟨t, _, hend, hframe, rfl, hlow, hhigh, houtside, ?_⟩
    rw [hsreg]
    exact ⟨rfl, rfl, rfl, rfl, rfl, rfl, rfl, rfl⟩
  · obtain ⟨t, hend, hframe, hlow, hhigh, houtside, hsreg⟩ := writePairFlags_ends d (s.pair d - k.zeroExtend 16)
      (sbiwFlags (bitOf (s.reg (d + 1)) 7) (s.pair d - k.zeroExtend 16) s.sreg) s
    refine ⟨t, _, hend, hframe, rfl, hlow, hhigh, houtside, ?_⟩
    rw [hsreg]
    exact ⟨rfl, rfl, rfl, rfl, rfl, rfl, rfl, rfl⟩

/-- The top bit of a pair is that of its high byte. -/
theorem getLsbD_append_seven (h l : Byte) : h.getLsbD 7 = (h ++ l).getLsbD 15 :=
  (BitVec.getLsbD_append (x := h) (y := l) (i := 15)).symm

/-- What R227 says of the numbers. -/
theorem adiw_means {w res : Word} {k : BitVec 6} (hres : res = w + k.zeroExtend 16) :
    (!res.getLsbD 15 && w.getLsbD 15) = decide (65536 ≤ w.toNat + k.toNat) ∧
    (res.getLsbD 15 && !w.getLsbD 15) = decide (32767 < w.toInt + (k.toNat : Int)) ∧
    xor (res.getLsbD 15) (res.getLsbD 15 && !w.getLsbD 15) = decide (w.toInt + (k.toNat : Int) < 0) := by
  have hw := w.isLt
  have hk := k.isLt
  have hsum : res.toNat = (w.toNat + k.toNat) % 65536 := by
    rw [hres, BitVec.toNat_add, BitVec.toNat_setWidth_of_le (by decide)]
  simp only [getLsbD_fifteen, ← Bool.decide_and, ← decide_not, decide_xor_decide, decide_eq_decide,
    BitVec.toInt_eq_toNat_cond]
  refine ⟨?_, ?_, ?_⟩ <;> omega

/-- What R228 says of the numbers. -/
theorem sbiw_means {w res : Word} {k : BitVec 6} (hres : res = w - k.zeroExtend 16) :
    (res.getLsbD 15 && !w.getLsbD 15) = decide (w.toNat < k.toNat) ∧
    (!res.getLsbD 15 && w.getLsbD 15) = decide (w.toInt - (k.toNat : Int) < -32768) ∧
    xor (res.getLsbD 15) (!res.getLsbD 15 && w.getLsbD 15) = decide (w.toInt - (k.toNat : Int) < 0) := by
  have hw := w.isLt
  have hk := k.isLt
  have hdiff : res.toNat = (65536 - k.toNat + w.toNat) % 65536 := by
    rw [hres, BitVec.toNat_sub, BitVec.toNat_setWidth_of_le (by decide)]
  simp only [getLsbD_fifteen, ← Bool.decide_and, ← decide_not, decide_xor_decide, decide_eq_decide,
    BitVec.toInt_eq_toNat_cond]
  refine ⟨?_, ?_, ?_⟩ <;> omega

/-- Settles O35: the flags of ADIW and SBIW, as numbers. -/
theorem wordFlagsMeanCarryBorrowOverflow : Obligations.WordFlagsMeanCarryBorrowOverflow := by
  rintro d k s w rfl
  obtain ⟨-, -, hsteps⟩ := adiwAndSbiwPairsAndFlags
  obtain ⟨⟨t, res, hexec, -, hres, -, -, -, -, hv, hc, -, hs, -⟩,
    t', res', hexec', -, hres', -, -, -, -, hv', hc', -, hs', -⟩ := hsteps d k s
  rw [getLsbD_append_seven _ (s.reg d)] at hc hv hs hc' hv' hs'
  obtain ⟨hcarry, hover, hsign⟩ := adiw_means hres
  obtain ⟨hborrow', hover', hsign'⟩ := sbiw_means hres'
  exact ⟨⟨t, hexec, hc.trans hcarry, hv.trans hover, hs.trans hsign⟩,
    t', hexec', hc'.trans hborrow', hv'.trans hover', hs'.trans hsign'⟩

/-! ## The multiplies -/

/-- A product of two unsigned bytes fits in 16 bits (R229). -/
theorem mulUU_toNat (a b : Byte) : (mulUU a b).toNat = a.toNat * b.toNat := by
  have hfits : a.toNat * b.toNat ≤ 255 * 255 :=
    Nat.mul_le_mul (Nat.le_of_lt_succ a.isLt) (Nat.le_of_lt_succ b.isLt)
  rw [mulUU, BitVec.toNat_mul, BitVec.toNat_setWidth_of_le (by decide), BitVec.toNat_setWidth_of_le (by decide)]
  exact Nat.mod_eq_of_lt (by omega)

/-- The sign-extended byte is the same number. -/
theorem toInt_signExtend_byte (a : Byte) : (a.signExtend 16).toInt = a.toInt :=
  BitVec.toInt_signExtend_of_le (by decide)

/-- The zero-extended byte is the same number, which is not negative. -/
theorem toInt_zeroExtend_byte (b : Byte) : (b.zeroExtend 16).toInt = (b.toNat : Int) := by
  have hb := b.isLt
  have hnat : (b.zeroExtend 16).toNat = b.toNat := BitVec.toNat_setWidth_of_le (by decide)
  rw [BitVec.toInt_eq_toNat_of_lt (by omega), hnat]

/-- A signed byte is at most 128 in absolute value. -/
theorem natAbs_toInt_byte (a : Byte) : a.toInt.natAbs ≤ 128 := by
  have := a.toInt_lt
  have := a.le_toInt
  omega

/-- A 16-bit product whose factors are small enough is exact. -/
theorem toInt_mul_word {x y : Word} (hx : x.toInt.natAbs ≤ 128) (hy : y.toInt.natAbs ≤ 255) :
    (x * y).toInt = x.toInt * y.toInt := by
  have hfits : (x.toInt * y.toInt).natAbs ≤ 128 * 255 := by
    rw [Int.natAbs_mul]
    exact Nat.mul_le_mul hx hy
  rw [BitVec.toInt_mul]
  exact Int.bmod_eq_of_le (by omega) (by omega)

/-- A product of two signed bytes fits in 16 signed bits (R230). -/
theorem mulSS_toInt (a b : Byte) : (mulSS a b).toInt = a.toInt * b.toInt := by
  have ha := natAbs_toInt_byte a
  have hb := natAbs_toInt_byte b
  rw [mulSS, toInt_mul_word, toInt_signExtend_byte, toInt_signExtend_byte]
  · rw [toInt_signExtend_byte]; exact ha
  · rw [toInt_signExtend_byte]; omega

/-- A product of a signed and an unsigned byte fits in 16 signed bits (R231). -/
theorem mulSU_toInt (a b : Byte) : (mulSU a b).toInt = a.toInt * (b.toNat : Int) := by
  have ha := natAbs_toInt_byte a
  have hb := b.isLt
  rw [mulSU, toInt_mul_word, toInt_signExtend_byte, toInt_zeroExtend_byte]
  · rw [toInt_signExtend_byte]; exact ha
  · rw [toInt_zeroExtend_byte]; omega

/-- MUL, MULS and MULSU end with their exact product written (R229..R231). -/
theorem exec_multiply {d r : Reg} {i : Instr} (h : i = .mul d r ∨ i = .muls d r ∨ i = .mulsu d r) (s : State) :
    ∃ p, exec i s = writePairFlags 0 p (mulFlags p p s.sreg) s ∧
      (i = .mul d r → p.toNat = (s.reg d).toNat * (s.reg r).toNat) ∧
      (i = .muls d r → p.toInt = (s.reg d).toInt * (s.reg r).toInt) ∧
      (i = .mulsu d r → p.toInt = (s.reg d).toInt * ((s.reg r).toNat : Int)) := by
  rcases h with rfl | rfl | rfl
  · exact ⟨_, rfl, fun _ => mulUU_toNat _ _, nofun, nofun⟩
  · exact ⟨_, rfl, nofun, fun _ => mulSS_toInt _ _, nofun⟩
  · exact ⟨_, rfl, nofun, nofun, fun _ => mulSU_toInt _ _⟩

/-- FMUL, FMULS and FMULSU end with their exact product, shifted, written (R232..R234). -/
theorem exec_multiplyFractional {d r : Reg} {i : Instr} (h : i = .fmul d r ∨ i = .fmuls d r ∨ i = .fmulsu d r)
    (s : State) : ∃ p : Word, exec i s = writePairFlags 0 (p <<< 1) (mulFlags p (p <<< 1) s.sreg) s ∧
      (i = .fmul d r → p.toNat = (s.reg d).toNat * (s.reg r).toNat) ∧
      (i = .fmuls d r → p.toInt = (s.reg d).toInt * (s.reg r).toInt) ∧
      (i = .fmulsu d r → p.toInt = (s.reg d).toInt * ((s.reg r).toNat : Int)) := by
  rcases h with rfl | rfl | rfl
  · exact ⟨_, rfl, fun _ => mulUU_toNat _ _, nofun, nofun⟩
  · exact ⟨_, rfl, nofun, fun _ => mulSS_toInt _ _, nofun⟩
  · exact ⟨_, rfl, nofun, nofun, fun _ => mulSU_toInt _ _⟩

/-- A shift left by one doubles a word modulo 2^16. -/
theorem toNat_shiftLeft_one (p : Word) : (p <<< 1).toNat = p.toNat * 2 % 65536 := by
  rw [BitVec.toNat_shiftLeft, Nat.shiftLeft_eq]

/-- Settles O32: each multiply writes its product, which is exact. -/
theorem multipliesGiveTheExactProduct : Obligations.MultipliesGiveTheExactProduct := by
  refine ⟨encodes_row 85 (by decide), encodes_row 2 (by decide), encodes_row 3 (by decide), fun d r s i hi => ?_⟩
  obtain ⟨p, hexec, hmul, hmuls, hmulsu⟩ := exec_multiply hi s
  obtain ⟨t, hend, hframe, hlow, hhigh, houtside, hsreg⟩ := writePairFlags_ends 0 p (mulFlags p p s.sreg) s
  exact ⟨t, p, hexec.trans hend, hframe, hlow, hhigh, houtside, hmul, hmuls, hmulsu, hsreg⟩

/-- Settles O33: each fractional multiply writes its exact product shifted. -/
theorem fractionalMultipliesShiftTheProduct : Obligations.FractionalMultipliesShiftTheProduct := by
  refine ⟨encodes_row 4 (by decide), encodes_row 5 (by decide), encodes_row 6 (by decide), fun d r s i hi => ?_⟩
  obtain ⟨p, hexec, hfmul, hfmuls, hfmulsu⟩ := exec_multiplyFractional hi s
  obtain ⟨t, hend, hframe, hlow, hhigh, houtside, hsreg⟩ :=
    writePairFlags_ends 0 (p <<< 1) (mulFlags p (p <<< 1) s.sreg) s
  exact ⟨t, p, p <<< 1, hexec.trans hend, hframe, hlow, hhigh, houtside, hfmul, hfmuls, hfmulsu,
    toNat_shiftLeft_one p, hsreg⟩

end Sys2Proof.Machine
end

section
/-! PROOFS of the family of 42_control_flow.md: the jumps and the branches, which write the pc or nothing. -/

namespace Sys2Proof.Machine

/-! ## Jumps -/

/-- An instruction that ends with a write of the pc changes nothing else (R33, R53). -/
theorem exec_setPc {i : Instr} {n : Nat} {v : PcWord} {s : State} (h : exec i s = finish n (s.setPc v)) :
    ∃ t, exec i s = .next t ∧ OnlyPc n v s t := ⟨_, h, rfl⟩

/-- EIJMP after its check of the width (R303). -/
theorem exec_eijmp (s : State) :
    exec .eijmp s = needs22 .eijmp s fun u => finish 2 (u.setPc (eindZ u)) := rfl

/-- Settles O36: RJMP, JMP and IJMP end with a write of the pc, and EIJMP does after its check of the width. -/
theorem jumpsWriteTheirTarget : Obligations.JumpsWriteTheirTarget := by
  refine ⟨encodes_row 88 (by decide), encodes_row 77 (by decide), encodes_row 63 (by decide), encodes_row 64 (by decide),
    fun s => ⟨fun _ => exec_setPc rfl, fun _ => exec_setPc rfl, exec_setPc rfl, fun h22 => ?_, fun h16 => ?_⟩⟩
  · exact exec_setPc ((exec_eijmp s).trans (needs22_pc22 h22 _ _))
  · rw [exec_eijmp]
    exact needs22_fails h16 .eijmp _

/-! ## Branches -/

/-- BRBS jumps where the bit of SREG is 1 (R311, R312). -/
theorem exec_brbs (b : BitNo) (k : BitVec 7) (s : State) : exec (.brbs b k) s =
    bif s.sreg.toByte.getLsbD b.val then finish 2 (s.setPc (s.pc + k.signExtend 22)) else finish 1 s := by
  rw [getLsbD_toByte]
  change execBrbs b k s = _
  rw [execBrbs]
  cases s.sreg.bit b <;> rfl

/-- BRBC jumps where the bit of SREG is 0 (R311, R313). -/
theorem exec_brbc (b : BitNo) (k : BitVec 7) (s : State) : exec (.brbc b k) s =
    bif s.sreg.toByte.getLsbD b.val then finish 1 s else finish 2 (s.setPc (s.pc + k.signExtend 22)) := by
  rw [getLsbD_toByte]
  change execBrbc b k s = _
  rw [execBrbc]
  cases s.sreg.bit b <;> rfl

/-- Settles O41: taken, each form ends with a write of the pc; not taken, with nothing but its one cycle. -/
theorem branchesTestOneFlag : Obligations.BranchesTestOneFlag := by
  refine ⟨encodes_row 91 (by decide), encodes_row 92 (by decide), fun b k s => ⟨?taken, ?notTaken⟩⟩
  case taken =>
    rintro i (⟨rfl, hbit⟩ | ⟨rfl, hbit⟩)
    · exact exec_setPc (by rw [exec_brbs, hbit, cond_true])
    · exact exec_setPc (by rw [exec_brbc, hbit, cond_false])
  case notTaken =>
    rintro i (⟨rfl, hbit⟩ | ⟨rfl, hbit⟩)
    · exact ⟨_, by rw [exec_brbs, hbit, cond_false, finish], rfl⟩
    · exact ⟨_, by rw [exec_brbc, hbit, cond_true, finish], rfl⟩

end Sys2Proof.Machine
end

section
/-! PROOFS of the family of 43_data_transfer.md: the moves between registers, which copy bytes and keep all else. -/

namespace Sys2Proof.Machine

/-- The end of a one-cycle instruction that writes Rd alone. -/
theorem finish_setReg_ends (d : Reg) (res : Byte) (s : State) :
    ∃ t, finish 1 (s.setReg d res) = .next t ∧ OnlyRegs 1 s t ∧ t.reg d = res ∧ OthersKept d s t :=
  ⟨_, rfl, rfl, s.reg_setReg_self d res, fun _ hj => s.reg_setReg_of_ne hj res⟩

/-- The end of a one-cycle instruction that writes a pair alone (R32). -/
theorem finish_setPair_ends (d : Reg) (w : Word) (s : State) :
    ∃ t, finish 1 (s.setPair d w) = .next t ∧ OnlyRegs 1 s t ∧ t.reg d = loByte w ∧ t.reg (d + 1) = hiByte w ∧
      OutsidePairKept d s t :=
  ⟨_, rfl, rfl, s.reg_setPair_low d w, s.reg_setPair_high d w,
    fun _ hlow hhigh => State.reg_setPair_outside hlow hhigh w⟩

/-- The low byte of the pair read from `r`. -/
theorem loByte_pair (s : State) (r : Reg) : loByte (s.pair r) = s.reg r := loByte_join _ _

/-- The high byte of the pair read from `r`. -/
theorem hiByte_pair (s : State) (r : Reg) : hiByte (s.pair r) = s.reg (r + 1) := hiByte_join _ _

/-- Settles O43: MOV and LDI end with a write of Rd, and MOVW with a write of the pair it has read whole before, so that
overlapping pairs are copied too. -/
theorem movesCopyRegisters : Obligations.MovesCopyRegisters := by
  refine ⟨encodes_row 17 (by decide), encodes_row 1 (by decide), encodes_row 90 (by decide), fun d r k s =>
    ⟨finish_setReg_ends d (s.reg r) s, ?movw, finish_setReg_ends d k s⟩⟩
  case movw =>
    have hend := finish_setPair_ends d (s.pair r) s
    rwa [loByte_pair, hiByte_pair] at hend

end Sys2Proof.Machine
end

section
/-! PROOFS of the family of 44_bit_system.md: the instructions that write one bit, those that do nothing or set the sleep bit,
those that take their failure, and the words that are no instruction. -/

namespace Sys2Proof.Machine

/-! ## Words that are no instruction -/

/-- Fixed bits and one more: the word has the further bit clear or set. -/
theorem masked_or_twoPow {op m p : Word} (h : op &&& m = p) (k : Nat) :
    op &&& (m ||| .twoPow 16 k) = p ∨ op &&& (m ||| .twoPow 16 k) = p ||| .twoPow 16 k := by
  rw [BitVec.and_or_distrib_left, h, BitVec.and_twoPow]
  cases op.getLsbD k with
  | false => exact .inl BitVec.or_zero
  | true => exact .inr rfl

/-- Every long word is an instruction: bit 9 tells LDS from STS, and bit 1 tells JMP from CALL (R100, R125). -/
theorem decode_of_isLong {op : Word} (h : isLong op = true) (op2 : Word) : ∃ i, decode op op2 = some i := by
  simp only [isLong, Bool.or_eq_true, beq_iff_eq] at h
  obtain hdirect | hjump := h
  · obtain hlds | hsts := masked_or_twoPow hdirect 9
    · exact ⟨_, encodes_row 27 (by decide) op op2 hlds⟩
    · exact ⟨_, encodes_row 40 (by decide) op op2 hsts⟩
  · obtain hjmp | hcall := masked_or_twoPow hjump 1
    · exact ⟨_, encodes_row 77 (by decide) op op2 hjmp⟩
    · exact ⟨_, encodes_row 78 (by decide) op op2 hcall⟩

/-- A word that is no instruction is not long, so that no second word is fetched after it. -/
theorem isLong_of_decode_none {op : Word} (h : ∀ op2, decode op op2 = none) : isLong op = false := by
  refine Bool.eq_false_iff.mpr fun hl => ?_
  obtain ⟨i, hi⟩ := decode_of_isLong hl 0#16
  exact Option.some_ne_none i (hi.symm.trans (h 0#16))

/-- A Step applies the policy to a word that is no instruction, after the fetch of that one word (R508). -/
theorem step_unknownWord {s : State} {op : Word} (hs : s.asleep = false) (hw : AnswersWord (begun s) (fetchAt s) op)
    (hd : ∀ op2, decode op op2 = none) : step s = unknownWord op (fetched (begun s)) := by
  rw [step_awake hs, beginStep_eq_begun, fetchInstr_short hw (isLong_of_decode_none hd), hd]

theorem unknownWord_doNop {s : State} (h : s.policy = .doNop) (op : Word) : unknownWord op s = finish 1 s := by
  rw [unknownWord, h]

/-- The reserved policy is treated as ThrowException (R55). -/
theorem unknownWord_raises {s : State} (h : s.policy = .throwException ∨ s.policy = .emulatePhysical) (op : Word) :
    unknownWord op s = raise (.unknownOpcode s.pc0 op) s := by
  obtain h | h := h <;> rw [unknownWord, h]

/-- Settles O6: the Step is the policy's, applied after one fetch, which keeps the policy and the cycle counter. -/
theorem unknownWordFollowsThePolicy : Obligations.UnknownWordFollowsThePolicy := by
  intro s op hs hpc hw hd
  have hfetch := called_fetched (begun s)
  have hpolicy : (fetched (begun s)).policy = s.policy := hfetch.policy
  have hcycles : (fetched (begun s)).cycles = s.cycles := hfetch.cycles
  have hpc0 : (fetched (begun s)).pc0 = s.pc := fetched_pc0 (s := begun s) hpc
  rw [step_unknownWord hs hw hd, ← hpolicy]
  refine ⟨fun h => ?doNop, fun h => ?fails⟩
  case doNop => rw [unknownWord_doNop h, finish, hcycles]
  case fails =>
    rw [unknownWord_raises h, hpc0]
    exact ⟨_, rfl, failedFrom_failed _ nofun⟩

/-! ## Instructions that write one bit -/

/-- Bit k of SREG after a write of one flag (R40, R41). -/
theorem getLsbD_toByte_setBit (f : Sreg) (b : BitNo) (x : Bool) (k : Nat) :
    (f.setBit b x).toByte.getLsbD k = if k = b.val then x else f.toByte.getLsbD k := by
  by_cases hk : k < 8
  · obtain ⟨j, rfl⟩ : ∃ j : BitNo, j.val = k := ⟨⟨k, hk⟩, rfl⟩
    rw [getLsbD_toByte, getLsbD_toByte]
    split
    · next h => rw [Fin.ext h, bit_setBit_self]
    · next h => exact bit_setBit_of_ne f (fun e => h (congrArg Fin.val e)) x
  · have hne : k ≠ b.val := fun h => hk (h ▸ b.isLt)
    have hge := Nat.le_of_not_lt hk
    rw [if_neg hne, BitVec.getLsbD_of_ge _ k hge, BitVec.getLsbD_of_ge _ k hge]

/-- The end of BSET and BCLR: one flag written, and no other, S among them (R503, R504). -/
theorem setBit_ends (b : BitNo) (x : Bool) (s : State) : ∃ t, writeFlags (s.sreg.setBit b x) s = .next t ∧
    OnlyFlags 1 s t ∧ ∀ k, t.sreg.toByte.getLsbD k = if k = b.val then x else s.sreg.toByte.getLsbD k := by
  obtain ⟨t, hend, hframe, hsreg⟩ := writeFlags_ends (s.sreg.setBit b x) s
  exact ⟨t, hend, hframe, fun k => hsreg ▸ getLsbD_toByte_setBit s.sreg b x k⟩

/-- Settles O55: BLD ends with a write of Rd, which differs in the one bit; the others end with a write of one flag. -/
theorem bitInstructionsWriteOneBit : Obligations.BitInstructionsWriteOneBit := by
  refine ⟨encodes_row 93 (by decide), encodes_row 94 (by decide), encodes_row 61 (by decide), encodes_row 62 (by decide),
    fun d b s => ⟨?bld, writeFlags_ends _ s, setBit_ends b true s, setBit_ends b false s⟩⟩
  case bld =>
    obtain ⟨t, hend, hframe, hreg, hothers⟩ := finish_setReg_ends d (withBit (s.reg d) b s.sreg.t) s
    exact ⟨t, hend, hframe, hothers, fun k => hreg ▸ getLsbD_withBit (s.reg d) b s.sreg.t k⟩

/-! ## System instructions -/

/-- Settles O57: each is the end of a step of one cycle, SLEEP's after the write of the sleep bit. -/
theorem nopWdrAndSleepTakeOneCycle : Obligations.NopWdrAndSleepTakeOneCycle :=
  ⟨encodes_row 0 (by decide), encodes_row 70 (by decide), encodes_row 68 (by decide), fun _ => ⟨rfl, rfl, rfl⟩⟩

/-- Settles O58: each raises its failure and does nothing before; only BREAK's fixes the cycle counter (R605, R721). -/
theorem breakSpmAndDesTakeTheirFailure : Obligations.BreakSpmAndDesTakeTheirFailure := by
  refine ⟨encodes_row 69 (by decide), encodes_row 73 (by decide), encodes_row 74 (by decide), encodes_row 65 (by decide),
    fun s => ⟨rfl, ?notImplemented⟩⟩
  case notImplemented =>
    rintro i (rfl | rfl | ⟨k, rfl⟩) <;> exact ⟨_, rfl, failedFrom_failed s nofun⟩

end Sys2Proof.Machine
end

section
/-! PROOFS of the family of 60_exceptions.md: how a Run ends. The loop's fuel and its accumulated cycles together reach the
budget at every Step, since an awake Step that succeeds takes at least one cycle. -/

namespace Sys2Proof.Machine

/-! ## How a Step of an awake core ends -/

/-- An awake Step that succeeds takes one to five cycles and adds them to the counter (R53, R710, R720). -/
theorem step_ok_cycles {s t : State} {r : Nat} (hs : s.asleep = false) (h : step s = .next t) (hr : t.result = .ok r) :
    t.cycles = s.cycles + BitVec.ofNat 64 r ∧ 1 ≤ r ∧ r ≤ 5 := by
  obtain ⟨n, hn, hcycles, hle, hzero⟩ | ⟨f, hf, -⟩ := stepAccountsForItsCycles s t h
  · cases hr.symm.trans hn
    refine ⟨hcycles, Nat.one_le_iff_ne_zero.mpr fun h0 => ?_, hle⟩
    exact Bool.false_ne_true (hs.symm.trans (hzero.mp h0))
  · cases hr.symm.trans hf

/-- A Step succeeds, fails or is refused: no other end is left (R607, R731). -/
theorem step_succeeds_fails_or_refused (s : State) : (∃ t r, step s = .next t ∧ t.result = .ok r) ∨
    (∃ t f, step s = .next t ∧ t.result = .err f) ∨ ∃ r, step s = .refused r := by
  obtain ⟨t, ht⟩ | ⟨-, op, -, -, ht⟩ := step_ends_or_ownPointer s
  · obtain ⟨r, hr, -⟩ | ⟨f, hf, -⟩ := stepAccountsForItsCycles s t ht
    · exact .inl ⟨t, r, ht, hr⟩
    · exact .inr (.inl ⟨t, f, ht, hf⟩)
  · exact .inr (.inr ⟨_, ht⟩)

/-! ## One turn of the loop of R712 -/

section Turn

variable {fuel n acc : Nat} {s t : State}

/-- At the budget, or asleep, the loop ends, whatever fuel is left. -/
theorem runLoop_ended (h : n ≤ acc ∨ s.asleep = true) : runLoop fuel n acc s = .ok acc s := by
  have hstop : ¬(acc < n ∧ s.asleep = false) := by rwa [not_and_or, Nat.not_lt, Bool.not_eq_false]
  cases fuel <;> rw [runLoop, if_neg hstop]

/-- The loop goes on after a Step that succeeds. -/
theorem runLoop_ok {r : Nat} (h : acc < n ∧ s.asleep = false) (ht : step s = .next t) (hr : t.result = .ok r) :
    runLoop (fuel + 1) n acc s = runLoop fuel n (acc + r) t := by
  simp only [runLoop, if_pos h, ht, hr]

/-- The loop ends with a Step that fails. -/
theorem runLoop_err {f : Fault} (h : acc < n ∧ s.asleep = false) (ht : step s = .next t) (hf : t.result = .err f) :
    runLoop (fuel + 1) n acc s = .err f t := by
  simp only [runLoop, if_pos h, ht, hf]

/-- The loop ends with a Step that is refused. -/
theorem runLoop_refused {r : Refusal} (h : acc < n ∧ s.asleep = false) (ht : step s = .refused r) :
    runLoop (fuel + 1) n acc s = .refused r := by
  simp only [runLoop, if_pos h, ht]

end Turn

/-! ## The whole loop -/

/-- What the end of a Run of budget `n`, begun at the cycle count `c0`, says: of a success its cycles, and of the fuel that it
did not run out. -/
def RunAccounted (n : Nat) (c0 : BitVec 64) : RunResult → Prop
  | .ok acc t => (n ≤ acc ∨ t.asleep = true) ∧ acc ≤ n + 4 ∧ t.cycles = c0 + BitVec.ofNat 64 acc
  | .outOfFuel _ => False
  | .err _ _ | .refused _ => True

/-- With fuel for the rest of the budget, and the cycles so far accounted for, every end of the loop is. By induction on the
fuel: a turn uses one of it and adds at least one cycle. -/
theorem runLoop_accounted {n : Nat} {c0 : BitVec 64} {fuel acc : Nat} {s : State} (hfuel : n ≤ acc + fuel)
    (hacc : acc ≤ n + 4) (hcycles : s.cycles = c0 + BitVec.ofNat 64 acc) : RunAccounted n c0 (runLoop fuel n acc s) := by
  induction fuel generalizing acc s with
  | zero =>
    have hend : n ≤ acc := hfuel
    rw [runLoop_ended (.inl hend)]
    exact ⟨.inl hend, hacc, hcycles⟩
  | succ fuel ih =>
    by_cases hend : n ≤ acc ∨ s.asleep = true
    · rw [runLoop_ended hend]
      exact ⟨hend, hacc, hcycles⟩
    · have hturn : acc < n ∧ s.asleep = false := by rwa [not_or, Nat.not_le, Bool.not_eq_true] at hend
      obtain ⟨t, r, ht, hr⟩ | ⟨t, f, ht, hf⟩ | ⟨r, ht⟩ := step_succeeds_fails_or_refused s
      · obtain ⟨hstep, hpos, hle⟩ := step_ok_cycles hturn.2 ht hr
        rw [runLoop_ok hturn ht hr]
        refine ih (by omega) (by omega) ?_
        rw [hstep, hcycles, BitVec.ofNat_add, BitVec.add_assoc]
      · rw [runLoop_err hturn ht hf]
        trivial
      · rw [runLoop_refused hturn ht]
        trivial

/-- Steps that succeed within the budget are turns of the loop, and leave it fuel for one more. -/
theorem runLoop_stepped {n k used acc fuel : Nat} {s u : State} (h : Stepped k used s u) (hfuel : n ≤ acc + fuel)
    (hacc : acc + used < n) : ∃ left, runLoop fuel n acc s = runLoop (left + 1) n (acc + used) u := by
  induction k generalizing used acc fuel s with
  | zero =>
    obtain ⟨rfl, rfl⟩ := h
    obtain ⟨left, rfl⟩ : ∃ left, fuel = left + 1 := Nat.exists_eq_add_one.mpr (by omega)
    exact ⟨left, rfl⟩
  | succ k ih =>
    obtain ⟨t, r, rest, hs, ht, hr, rfl, hrest⟩ := h
    obtain ⟨-, hpos, -⟩ := step_ok_cycles hs ht hr
    obtain ⟨fuel, rfl⟩ : ∃ f, fuel = f + 1 := Nat.exists_eq_add_one.mpr (by omega)
    rw [runLoop_ok ⟨by omega, hs⟩ ht hr, ← Nat.add_assoc]
    exact ih hrest (by omega) (by omega)

/-! ## Run -/

/-- A Run from any state is accounted for: its fuel is its whole budget (log 19). -/
theorem runFor_accounted (n : BitVec 64) (s : State) : RunAccounted n.toNat s.cycles (runFor n s) :=
  runLoop_accounted (Nat.le_add_left _ _) (Nat.zero_le _) (BitVec.add_zero _).symm

/-- Settles O22: the account of the loop covers its success and its fuel; a failure or a refusal ends the turn that follows
the successful Steps. -/
theorem runStopsAtItsBudgetOrAsleep : Obligations.RunStopsAtItsBudgetOrAsleep := by
  refine ⟨fun n s t acc h => ?ok, fun n s t h => ?fuel, fun n s h => runLoop_ended (h.imp_left ?noBudget),
    fun n k acc s u hsteps hacc hu => ?failing⟩
  case ok =>
    have hrun := runFor_accounted n s
    rwa [h] at hrun
  case fuel =>
    have hrun := runFor_accounted n s
    rwa [h] at hrun
  case noBudget =>
    rintro rfl
    exact Nat.le_refl 0
  case failing =>
    rw [← Nat.zero_add acc] at hacc
    obtain ⟨left, hrun⟩ := runLoop_stepped hsteps (Nat.le_add_left _ 0) hacc
    exact ⟨fun t f ht hf => hrun.trans (runLoop_err ⟨hacc, hu⟩ ht hf),
      fun r ht => hrun.trans (runLoop_refused ⟨hacc, hu⟩ ht)⟩

end Sys2Proof.Machine
end

section
/-! PROOFS of the family of 70_reset_and_hazards.md: Reset. -/

namespace Sys2Proof.Machine

/-- Settles O20: the flags Reset loads are the composite view of 0, so that SREG reads back as 0 (R41). -/
theorem resetRestoresPcSpFlagsCyclesSleep : Obligations.ResetRestoresPcSpFlagsCyclesSleep :=
  fun _ => ⟨Sreg.ofByte 0#8, toByte_ofByte 0#8, rfl⟩

end Sys2Proof.Machine
end
